-- ==== Sys2Proof/Word.lean ====
section
/-! DEFINITION. The words of the block: bytes, 32-bit bus words, and byte arrays held as plain data. -/

namespace Sys2Proof

/-- One byte; every datum of a peripheral is one (20_memory.md R43). -/
abbrev Byte := BitVec 8

/-- A 32-bit bus word: an address or a datum of a transaction (30_encoding.md R70). -/
abbrev Word := BitVec 32

/-- A byte array as a list of (offset, byte) pairs, offsets strictly rising. Each array of the block
(`rom`, `ram`, `nvram`: 10_state.md R12, R13, R16) has its own offset space. -/
abbrev Memory := List Host.Cell

end Sys2Proof
end

