-- ==== Sys2Proof/Config.lean ====
section
/-! DEFINITION. The configuration record `CFG` (00_scope.md R4, R5) and the free values, which have no body. -/

namespace Sys2Proof

/-- The parameters the model takes as one record (00_scope.md R5). `duartMap` is the function `duartReg`
of R78 as a finite table from window offsets to register indices, an offset not listed being `none`
(log 12). `DUART_PORT` is host only and read by no rule, so it is not here. -/
structure Config where
  /-- `ADDR_MASK` -/
  addrMask  : Word
  /-- `ROM_BASE`, fixed at 0 by R6 (a) -/
  romBase   : Nat
  /-- `ROM_SIZE`, in bytes -/
  romSize   : Nat
  /-- `DUART_BASE` -/
  duartBase : Nat
  /-- `RTC_BASE` -/
  rtcBase   : Nat
  /-- `TUBE_BASE` -/
  tubeBase  : Nat
  /-- `VFD_BASE` -/
  vfdBase   : Nat
  /-- `RAM_BASE` -/
  ramBase   : Nat
  /-- `RAM_SIZE`, in bytes -/
  ramSize   : Nat
  /-- `STRICT` -/
  strict    : Bool
  /-- `ROM_IMAGE`: the bytes the image file gives; an offset not listed is one the file leaves unspecified
  (70_reset_and_hazards.md R254, log 7) -/
  romImage  : Memory
  /-- `NVRAM_INIT`: the bytes that differ from 0x00 (log 9) -/
  nvramInit : Memory
  /-- `duartReg` -/
  duartMap  : List (Nat × Fin 16)
  deriving DecidableEq, Repr

/-- FREE VALUE: the byte at RAM offset `i` after reset, arbitrary and stable (10_state.md R13, log 6). -/
opaque Config.ramPowerOn : Nat → Byte

/-- FREE VALUE: the byte at ROM offset `i` that the image file does not give (70_reset_and_hazards.md R254, log 7). -/
opaque Config.romFill : Nat → Byte

/-- FREE VALUE: the enable flag that the `n`-th reserved pattern 11 leaves (42_duart.md R155, R156, log 5). -/
opaque Config.freeEnable : Nat → Bool

/-- The reference configuration, column "reference value" of 00_scope.md R5 (log 8). No image byte is
given and `NVRAM_INIT` is all zero. -/
def Config.reference : Config where
  addrMask  := 0x00FFFFFF
  romBase   := 0x000000
  romSize   := 0x10000
  duartBase := 0x010000
  rtcBase   := 0x020000
  tubeBase  := 0x030000
  vfdBase   := 0x040000
  ramBase   := 0x050000
  ramSize   := 0x10000
  strict    := false
  romImage  := []
  nvramInit := []
  duartMap  := [(0, 0), (1, 1), (2, 2), (3, 3), (4, 4), (5, 5), (6, 6), (7, 7),
                (8, 8), (9, 9), (10, 10), (11, 11), (12, 12), (13, 13), (14, 14), (15, 15)]

end Sys2Proof
end

