-- ==== Sys2Proof/Machine/Memory.lean ====
section
/-! DEFINITION. The operations over one byte array and its canonical form. -/

namespace Sys2Proof

/-- The byte listed at offset `a`; `none` when the array lists nothing there. -/
def Memory.find (m : Memory) (a : Nat) : Option Byte :=
  match m with
  | [] => none
  | (k, v) :: rest => if k = a then some v else Memory.find rest a

/-- List `v` at `a`, keeping rising offsets. -/
def Memory.insert (m : Memory) (a : Nat) (v : Byte) : Memory :=
  match m with
  | [] => [(a, v)]
  | (k, w) :: rest =>
    if a < k then (a, v) :: (k, w) :: rest
    else if a = k then (a, v) :: rest
    else (k, w) :: Memory.insert rest a v

/-- List nothing at `a`. -/
def Memory.erase (m : Memory) (a : Nat) : Memory :=
  m.filter fun c => c.1 ≠ a

/-- Store `v` at `a` in an array whose unlisted offsets read as `dflt`: a byte equal to `dflt` is not listed.
`ram` has `dflt = none`, since what an unwritten byte of it holds is a free value (log 6); `nvram` has
`dflt = some 0` (log 9). -/
def Memory.store (dflt : Option Byte) (m : Memory) (a : Nat) (v : Byte) : Memory :=
  if dflt = some v then m.erase a else m.insert a v

/-- Offsets strictly rising. -/
def Memory.rising : Memory → Bool
  | [] => true
  | c :: rest => rest.all (fun d => c.1 < d.1) && Memory.rising rest

/-- The canonical form: offsets strictly rising, and no entry equal to what an unlisted offset reads as. -/
def Memory.wf (dflt : Option Byte) (m : Memory) : Bool :=
  m.rising && m.all fun c => dflt != some c.2

/-- Every listed offset lies below `size`. -/
def Memory.inside (size : Nat) (m : Memory) : Bool :=
  m.all fun c => c.1 < size

end Sys2Proof
end

