-- ==== Sys2Proof/Syntax.lean ====
section
/-! DEFINITION. The operations of the block as syntax: one constructor for each row of spec/opcode_table.json. -/

namespace Sys2Proof

/-- The legal bus widths (30_encoding.md R71); any other width is unrepresentable (40_bus_router.md R112). -/
inductive Width where
  | w8 | w16 | w32
  deriving DecidableEq, Repr

/-- The two DUART channels (00_scope.md R9). -/
inductive Channel where
  | A | B
  deriving DecidableEq, Repr

/-- Direction of a transaction: `data` exists for a write only (30_encoding.md R70). -/
inductive BusOp where
  | read
  | write (data : Word)
  deriving DecidableEq, Repr

/-- A transaction whose address is already masked: `addr` is the `A` of 40_bus_router.md R100. `data` is
as the bus master passed it; the bits above the width are ignored where it is used (30_encoding.md R72). -/
structure Access where
  addr  : Word
  width : Width
  op    : BusOp
  deriving DecidableEq, Repr

/-- An 8-bit write to the command register of `ch` (42_duart.md R154): what the rows of the formats
CR.CMD, CR.TX and CR.RX are parts of. `addr` and the whole byte are kept, for the log entry of an
unimplemented command records them (95_test_vectors.md V-DUART-15). -/
structure CmdWrite where
  addr : Word
  ch   : Channel
  data : Byte
  deriving DecidableEq, Repr

/-- One constructor per row of spec/opcode_table.json. `a` is a masked address, `w` a width, `d` the data
written, `t` an access of either direction. -/
inductive Instr where
  -- BUS36: the router (40_bus_router.md)
  | romStraddle (t : Access)
  | ramStraddle (t : Access)
  | romRd (a : Word) (w : Width)
  | romWr (a : Word) (w : Width) (d : Word)
  | ramRd (a : Word) (w : Width)
  | ramWr (a : Word) (w : Width) (d : Word)
  -- BUS36: the DS1244 (41_ds1244.md)
  | rtcBadwidth (t : Access)
  | rtcWrNormal (a : Word) (d : Byte)
  | rtcRdNormal (a : Word)
  | rtcWrSerial (a : Word) (d : Byte)
  | rtcRdSerial (a : Word)
  -- BUS36: the DUART (42_duart.md)
  | duartBadwidth (t : Access)
  | srRd (a : Word) (ch : Channel)
  | rhrRd (a : Word) (ch : Channel)
  | mrWr (a : Word) (ch : Channel) (d : Byte)
  | csrWr (a : Word) (ch : Channel) (d : Byte)
  | crWr (a : Word) (ch : Channel) (d : Byte)
  | thrWr (a : Word) (ch : Channel) (d : Byte)
  | acrWr (a : Word) (d : Byte)
  | imrWr (a : Word) (d : Byte)
  | cturWr (a : Word) (d : Byte)
  | ctlrWr (a : Word) (d : Byte)
  | ivrWr (a : Word) (d : Byte)
  | opcrWr (a : Word) (d : Byte)
  | oprSetWr (a : Word) (d : Byte)
  | oprClrWr (a : Word) (d : Byte)
  | duartUnimplRd (a : Word)
  | duartUnimplWr (a : Word) (d : Byte)
  -- BUS36: the sinks (43_sinks.md)
  | tubeBadwidth (t : Access)
  | tubeWr (a : Word) (d : Byte)
  | tubeRd (a : Word)
  | vfdBadwidth (t : Access)
  | vfdWr (a : Word) (d : Byte)
  | vfdRd (a : Word)
  -- BUS36: no region
  | unmappedRd (a : Word) (w : Width)
  | unmappedWr (a : Word) (w : Width) (d : Word)
  -- CR.CMD: the command nibble (30_encoding.md R81)
  | cmdNop (c : CmdWrite)
  | cmdResetMrp (c : CmdWrite)
  | cmdResetRx (c : CmdWrite)
  | cmdResetTx (c : CmdWrite)
  | cmdResetErr (c : CmdWrite)
  | cmdResetBrkirq (c : CmdWrite)
  | cmdStartBreak (c : CmdWrite)
  | cmdStopBreak (c : CmdWrite)
  | cmdSetRxbrg (c : CmdWrite)
  | cmdClrRxbrg (c : CmdWrite)
  | cmdSetTxbrg (c : CmdWrite)
  | cmdClrTxbrg (c : CmdWrite)
  | cmdStandby (c : CmdWrite)
  | cmdActive (c : CmdWrite)
  | cmdRsvdE (c : CmdWrite)
  | cmdRsvdF (c : CmdWrite)
  -- CR.TX and CR.RX: the enable fields (30_encoding.md R82)
  | txcNochange (c : CmdWrite)
  | txcEnable (c : CmdWrite)
  | txcDisable (c : CmdWrite)
  | txcReserved (c : CmdWrite)
  | rxcNochange (c : CmdWrite)
  | rxcEnable (c : CmdWrite)
  | rxcDisable (c : CmdWrite)
  | rxcReserved (c : CmdWrite)
  -- AGENT: the reader agent of a channel (42_duart.md R196)
  | rxPush (ch : Channel) (b : Byte)
  deriving DecidableEq, Repr

end Sys2Proof
end

