-- ==== Sys2Proof/Machine/Operands.lean ====
section
/-! DEFINITION. The fixed constants (00_scope.md R4) and the operand forms: widths, truncation, zero extension, big-endian assembly and offsets. -/

namespace Sys2Proof

/-- `WINDOW_SIZE` (00_scope.md R4). -/
def windowSize : Nat := 0x10000

/-- `NVRAM_SIZE` (00_scope.md R4). -/
def nvramSize : Nat := 0x8000

/-- `NVRAM_MASK` (00_scope.md R4). -/
def nvramMask : Nat := 0x7FFF

/-- `SERIAL_LEN` (00_scope.md R4). -/
def serialLen : Nat := 64

/-- `TX_READY_DEPTH` (00_scope.md R4). -/
def txReadyDepth : Nat := 3

/-- `RX_FULL_DEPTH` (00_scope.md R4). -/
def rxFullDepth : Nat := 3

/-- `n = width / 8`, the bytes an access moves (30_encoding.md R71). -/
def Width.bytes : Width → Nat
  | .w8 => 1
  | .w16 => 2
  | .w32 => 4

/-- The width in bits, as the log and the interface write it (30_encoding.md R71). -/
def Width.bits (w : Width) : Nat := 8 * w.bytes

/-- `data[width-1:0]`, zero-extended: a write uses no higher bit (30_encoding.md R72). -/
def Width.trunc (w : Width) (v : Word) : Word :=
  match w with
  | .w8 => (v.extractLsb' 0 8).setWidth 32
  | .w16 => (v.extractLsb' 0 16).setWidth 32
  | .w32 => v

/-- A byte as the value of an 8-bit read: `zext_32` (40_bus_router.md R108). -/
def zext32 (b : Byte) : Word := b.setWidth 32

/-- `MemRead(buf, off, n)`: the most significant byte at the lowest offset (00_scope.md R8, 20_memory.md R40),
zero-extended to 32 bits. `buf` gives one byte of the array. -/
def memRead (buf : Nat → Byte) (off : Nat) : Width → Word
  | .w8 => (buf off).setWidth 32
  | .w16 => (buf off ++ buf (off + 1)).setWidth 32
  | .w32 => buf off ++ buf (off + 1) ++ buf (off + 2) ++ buf (off + 3)

/-- Byte `k` of the value `MemWrite(buf, off, n, v)` stores, `v[8(n-k)-1 : 8(n-k-1)]` (00_scope.md R8). -/
def beByte (w : Width) (v : Word) (k : Nat) : Byte :=
  v.extractLsb' (8 * (w.bytes - k - 1)) 8

/-- The bytes `MemWrite(buf, off, n, v)` stores, the one for `buf[off]` first (00_scope.md R8). -/
def beBytes (w : Width) (v : Word) : List Byte :=
  (List.range w.bytes).map (beByte w v)

/-- The index `a & 0x7FFF` into `nvram` of window offset `off` (30_encoding.md R76). -/
def nvramIndex (off : Nat) : Nat := off &&& nvramMask

/-- `isRead` of a transaction (30_encoding.md R70). -/
def Access.isRead (t : Access) : Bool :=
  match t.op with
  | .read => true
  | .write _ => false

/-- The `data` a log entry records: the truncated write data, 0 for a read (60_exceptions.md R226, R229). -/
def Access.loggedData (t : Access) : Word :=
  match t.op with
  | .read => 0
  | .write d => t.width.trunc d

/-- An 8-bit read of `a`. -/
def Access.read8 (a : Word) : Access := ⟨a, .w8, .read⟩

/-- An 8-bit write of `d` to `a`. -/
def Access.write8 (a : Word) (d : Byte) : Access := ⟨a, .w8, .write (zext32 d)⟩

/-- The transaction a command write is. -/
def CmdWrite.access (c : CmdWrite) : Access := .write8 c.addr c.data

/-- The command nibble, bits 7:4 (30_encoding.md R80). -/
def CmdWrite.cmd (c : CmdWrite) : BitVec 4 := c.data.extractLsb' 4 4

/-- The transmitter enable field, bits 3:2 (30_encoding.md R80). -/
def CmdWrite.txc (c : CmdWrite) : BitVec 2 := c.data.extractLsb' 2 2

/-- The receiver enable field, bits 1:0 (30_encoding.md R80). -/
def CmdWrite.rxc (c : CmdWrite) : BitVec 2 := c.data.extractLsb' 0 2

end Sys2Proof
end

