-- ==== Sys2Proof/Machine/AddressMap.lean ====
section
/-! DEFINITION. The address map: which region an address lies in, and which configurations are legal. -/

namespace Sys2Proof

/-- The six regions (20_memory.md R48). -/
inductive Region where
  | rom | ram | duart | rtc | tube | vfd
  deriving DecidableEq, Repr

/-- The first address of a region. -/
def Config.base (c : Config) : Region → Nat
  | .rom => c.romBase
  | .ram => c.ramBase
  | .duart => c.duartBase
  | .rtc => c.rtcBase
  | .tube => c.tubeBase
  | .vfd => c.vfdBase

/-- The size of a region in bytes; a window is exactly 64KB (00_scope.md R4). -/
def Config.size (c : Config) : Region → Nat
  | .rom => c.romSize
  | .ram => c.ramSize
  | .duart | .rtc | .tube | .vfd => windowSize

/-- One past the last address of a region. -/
def Config.top (c : Config) (r : Region) : Nat := c.base r + c.size r

/-- `base <= A < base + size` (30_encoding.md R74 step 2). -/
def Config.inRegion (c : Config) (r : Region) (a : Nat) : Bool :=
  decide (c.base r ≤ a) && decide (a < c.top r)

/-- The window table, scanned in this order (10_state.md R14, 20_memory.md R49). -/
def windowTable : List Region := [.duart, .rtc, .tube, .vfd]

/-- Resolution of a masked address: ROM, then RAM, then the window table, else nothing (20_memory.md R49,
40_bus_router.md R100). -/
def Config.region (c : Config) (a : Nat) : Option Region :=
  if c.inRegion .rom a then some .rom
  else if c.inRegion .ram a then some .ram
  else windowTable.find? fun r => c.inRegion r a

/-- `off = A - base`, computed only where `base <= A` (30_encoding.md R74 step 3, 40_bus_router.md R113). -/
def Config.offset (c : Config) (r : Region) (a : Word) : Nat := a.toNat - c.base r

/-- `A = address & ADDR_MASK` (20_memory.md R61). -/
def Config.mask (c : Config) (address : Word) : Word := address &&& c.addrMask

/-- `A + n` exceeds the region's end, without wrap-around (20_memory.md R51, 40_bus_router.md R113). -/
def Config.straddles (c : Config) (r : Region) (a : Word) (w : Width) : Bool :=
  decide (c.top r < a.toNat + w.bytes)

/-- `duartReg(off)` (30_encoding.md R78). -/
def Config.duartReg (c : Config) (off : Nat) : Option (Fin 16) := c.duartMap.lookup off

/-- The register index of `ch` for the register at index `k` of channel A (30_encoding.md R79: channel B is 8 higher). -/
def Channel.index (ch : Channel) (k : Fin 8) : Fin 16 :=
  match ch with
  | .A => ⟨k.val, by omega⟩
  | .B => ⟨k.val + 8, by omega⟩

/-- The six regions, for the constraints. -/
def allRegions : List Region := [.rom, .ram, .duart, .rtc, .tube, .vfd]

/-- Two regions share no address; a region of no bytes shares none with any. -/
def Config.disjoint (c : Config) (r q : Region) : Bool :=
  decide (c.size r = 0) || decide (c.size q = 0) || decide (c.top r ≤ c.base q) || decide (c.top q ≤ c.base r)

/-- The constraints of 00_scope.md R6, with the images' own shape: (a) ROM at 0, (b) disjoint regions,
(c) 64KB granularity, (d) inside `[0, ADDR_MASK]`, (e) the reset vector exists. -/
def Config.wf (c : Config) : Bool :=
  decide (c.romBase = 0)
  && allRegions.all (fun r => allRegions.all fun q => decide (r = q) || c.disjoint r q)
  && allRegions.all (fun r => decide (c.base r % 0x10000 = 0) && decide (c.size r % 0x10000 = 0))
  && allRegions.all (fun r => decide (c.top r ≤ c.addrMask.toNat + 1))
  && decide (8 ≤ c.romSize)
  && c.romImage.wf none && c.romImage.inside c.romSize
  && c.nvramInit.wf (some 0) && c.nvramInit.inside nvramSize

end Sys2Proof
end

