-- ==== Sys2Proof/WellFormed.lean ====
section
/-! DEFINITION. Which operations a configuration can present: the operand columns of spec/opcode_table.json. -/

namespace Sys2Proof

/-- `a` is a masked address of region `r`. -/
def Config.addrIn (c : Config) (r : Region) (a : Word) : Bool :=
  decide (c.mask a = a) && decide (c.region a.toNat = some r)

/-- `a` is the masked address of DUART register index `k` (30_encoding.md R79). -/
def Config.addrOf (c : Config) (k : Fin 16) (a : Word) : Bool :=
  c.addrIn .duart a && decide (c.duartReg (c.offset .duart a) = some k)

/-- An access that starts in `r` and ends past its last byte (40_bus_router.md R105). -/
def Config.straddling (c : Config) (r : Region) (t : Access) : Bool :=
  c.addrIn r t.addr && c.straddles r t.addr t.width

/-- An access wholly inside ROM or RAM (40_bus_router.md R101 to R104). -/
def Config.fits (c : Config) (r : Region) (a : Word) (w : Width) : Bool :=
  c.addrIn r a && !c.straddles r a w

/-- A 16-bit or 32-bit access to a window (60_exceptions.md R221). -/
def Config.wide (c : Config) (r : Region) (t : Access) : Bool :=
  c.addrIn r t.addr && decide (t.width ≠ .w8)

/-- A register index with no described read (42_duart.md R194). -/
def unreadable (k : Fin 16) : Bool :=
  decide (k ≠ Channel.A.index 1) && decide (k ≠ Channel.B.index 1)
  && decide (k ≠ Channel.A.index 3) && decide (k ≠ Channel.B.index 3)

/-- An address of the DUART window with no described read (42_duart.md R194). -/
def Config.noRead (c : Config) (a : Word) : Bool :=
  c.addrIn .duart a &&
  match c.duartReg (c.offset .duart a) with
  | none => true
  | some k => unreadable k

/-- An address of the DUART window that decodes to no register (42_duart.md R195). -/
def Config.noRegister (c : Config) (a : Word) : Bool :=
  c.addrIn .duart a && decide (c.duartReg (c.offset .duart a) = none)

/-- A masked address outside every region (40_bus_router.md R106, R107). -/
def Config.unmapped (c : Config) (a : Word) : Bool :=
  decide (c.mask a = a) && decide (c.region a.toNat = none)

/-- A write to the command register of its channel (42_duart.md R154). -/
def CmdWrite.wf (c : Config) (w : CmdWrite) : Bool := c.addrOf (w.ch.index 2) w.addr

/-- The operands of an operation are those its row and rule give it, under configuration `c`. -/
def Instr.wf (c : Config) : Instr → Bool
  | .romStraddle t => c.straddling .rom t
  | .ramStraddle t => c.straddling .ram t
  | .romRd a w | .romWr a w _ => c.fits .rom a w
  | .ramRd a w | .ramWr a w _ => c.fits .ram a w
  | .rtcBadwidth t => c.wide .rtc t
  | .rtcWrNormal a _ | .rtcRdNormal a | .rtcWrSerial a _ | .rtcRdSerial a => c.addrIn .rtc a
  | .duartBadwidth t => c.wide .duart t
  | .srRd a ch => c.addrOf (ch.index 1) a
  | .rhrRd a ch => c.addrOf (ch.index 3) a
  | .mrWr a ch _ => c.addrOf (ch.index 0) a
  | .csrWr a ch _ => c.addrOf (ch.index 1) a
  | .crWr a ch _ => c.addrOf (ch.index 2) a
  | .thrWr a ch _ => c.addrOf (ch.index 3) a
  | .acrWr a _ => c.addrOf 4 a
  | .imrWr a _ => c.addrOf 5 a
  | .cturWr a _ => c.addrOf 6 a
  | .ctlrWr a _ => c.addrOf 7 a
  | .ivrWr a _ => c.addrOf 12 a
  | .opcrWr a _ => c.addrOf 13 a
  | .oprSetWr a _ => c.addrOf 14 a
  | .oprClrWr a _ => c.addrOf 15 a
  | .duartUnimplRd a => c.noRead a
  | .duartUnimplWr a _ => c.noRegister a
  | .tubeBadwidth t => c.wide .tube t
  | .tubeWr a _ | .tubeRd a => c.addrIn .tube a
  | .vfdBadwidth t => c.wide .vfd t
  | .vfdWr a _ | .vfdRd a => c.addrIn .vfd a
  | .unmappedRd a _ | .unmappedWr a _ _ => c.unmapped a
  | .cmdNop w => w.wf c && decide (w.cmd = 0x0)
  | .cmdResetMrp w => w.wf c && decide (w.cmd = 0x1)
  | .cmdResetRx w => w.wf c && decide (w.cmd = 0x2)
  | .cmdResetTx w => w.wf c && decide (w.cmd = 0x3)
  | .cmdResetErr w => w.wf c && decide (w.cmd = 0x4)
  | .cmdResetBrkirq w => w.wf c && decide (w.cmd = 0x5)
  | .cmdStartBreak w => w.wf c && decide (w.cmd = 0x6)
  | .cmdStopBreak w => w.wf c && decide (w.cmd = 0x7)
  | .cmdSetRxbrg w => w.wf c && decide (w.cmd = 0x8)
  | .cmdClrRxbrg w => w.wf c && decide (w.cmd = 0x9)
  | .cmdSetTxbrg w => w.wf c && decide (w.cmd = 0xA)
  | .cmdClrTxbrg w => w.wf c && decide (w.cmd = 0xB)
  | .cmdStandby w => w.wf c && decide (w.cmd = 0xC)
  | .cmdActive w => w.wf c && decide (w.cmd = 0xD)
  | .cmdRsvdE w => w.wf c && decide (w.cmd = 0xE)
  | .cmdRsvdF w => w.wf c && decide (w.cmd = 0xF)
  | .txcNochange w => w.wf c && decide (w.txc = 0)
  | .txcEnable w => w.wf c && decide (w.txc = 1)
  | .txcDisable w => w.wf c && decide (w.txc = 2)
  | .txcReserved w => w.wf c && decide (w.txc = 3)
  | .rxcNochange w => w.wf c && decide (w.rxc = 0)
  | .rxcEnable w => w.wf c && decide (w.rxc = 1)
  | .rxcDisable w => w.wf c && decide (w.rxc = 2)
  | .rxcReserved w => w.wf c && decide (w.rxc = 3)
  | .rxPush _ _ => true

/-- The value of `activated` a row's `cond` asks for (30_encoding.md R89, 41_ds1244.md R136); `none` where the
row has no such condition. -/
def Instr.mode : Instr → Option Bool
  | .rtcWrNormal _ _ | .rtcRdNormal _ => some false
  | .rtcWrSerial _ _ | .rtcRdSerial _ => some true
  | _ => none

/-- The row's condition on the mode holds when `activated = serial`. -/
def Instr.selectedIn (i : Instr) (serial : Bool) : Bool :=
  match i.mode with
  | none => true
  | some m => m == serial

end Sys2Proof
end

