-- ==== Sys2Proof/Decode.lean ====
section
/-! DEFINITION. Decoding of a frame into an operation, total, rejecting by name; then the encoder. -/

namespace Sys2Proof

/-- One step's stimulus as words: the 36-bit key of 30_encoding.md R75 (bit 35 isRead, bits 34:32 the one-hot
width, bits 31:0 the address) with the format in bits 39:36, and the data the key is followed by (R87).
Format codes (log 2): 0 BUS36, 1 CR.CMD, 2 CR.TX, 3 CR.RX, 4 AGENT. -/
structure Frame where
  key  : BitVec 40
  data : Word
  deriving DecidableEq, Repr

/-- Why a frame is no operation. -/
inductive DecodeError where
  /-- The frame has no width of 8, 16 or 32 bits (40_bus_router.md R112). -/
  | badWidth
  /-- Bits 39:36 name no format of the table (log 2). -/
  | badFormat
  /-- A frame of a CR format whose transaction is no 8-bit write of a command register (30_encoding.md R89). -/
  | notCommandWrite
  /-- An AGENT frame with a bit set outside its channel and byte (log 2). -/
  | badAgent
  /-- Fewer bytes than a frame has (log 2). -/
  | short
  deriving DecidableEq, Repr

/-! ## Fields -/

/-- Bits 39:36. -/
def Frame.format (f : Frame) : BitVec 4 := f.key.extractLsb' 36 4

/-- Bits 34:32, exactly one of which is 1 (30_encoding.md R75). -/
def Frame.width (f : Frame) : Option Width :=
  match (f.key.extractLsb' 32 3).toNat with
  | 1 => some .w8
  | 2 => some .w16
  | 4 => some .w32
  | _ => none

/-- Bit 35. -/
def Frame.isRead (f : Frame) : Bool := f.key.getLsbD 35

/-- The address as the bus master presents it, before the mask (30_encoding.md R70). -/
def Frame.address (f : Frame) : Word := f.key.setWidth 32

/-- The transaction of a frame with its address masked (20_memory.md R61); `none` where the width is
outside {8,16,32}. -/
def Frame.access (c : Config) (f : Frame) : Option Access :=
  f.width.map fun w => ⟨c.mask f.address, w, if f.isRead then .read else .write f.data⟩

/-- `data[7:0]`. -/
def lowByte (d : Word) : Byte := d.setWidth 8

/-! ## Dispatch of a transaction -/

/-- 41_ds1244.md R136, `serial` being `activated` before the access. -/
def decodeRtc (serial : Bool) (t : Access) : Instr :=
  if t.width ≠ .w8 then .rtcBadwidth t
  else match serial, t.op with
    | false, .read => .rtcRdNormal t.addr
    | false, .write d => .rtcWrNormal t.addr (lowByte d)
    | true, .read => .rtcRdSerial t.addr
    | true, .write d => .rtcWrSerial t.addr (lowByte d)

/-- An 8-bit read of register index `r` (42_duart.md R150). -/
def decodeDuartRead (a : Word) (r : Fin 16) : Instr :=
  match r.val with
  | 1 => .srRd a .A
  | 3 => .rhrRd a .A
  | 9 => .srRd a .B
  | 11 => .rhrRd a .B
  | _ => .duartUnimplRd a

/-- An 8-bit write of register index `r` (42_duart.md R150). -/
def decodeDuartWrite (a : Word) (d : Byte) (r : Fin 16) : Instr :=
  match r.val with
  | 0 => .mrWr a .A d
  | 1 => .csrWr a .A d
  | 2 => .crWr a .A d
  | 3 => .thrWr a .A d
  | 4 => .acrWr a d
  | 5 => .imrWr a d
  | 6 => .cturWr a d
  | 7 => .ctlrWr a d
  | 8 => .mrWr a .B d
  | 9 => .csrWr a .B d
  | 10 => .crWr a .B d
  | 11 => .thrWr a .B d
  | 12 => .ivrWr a d
  | 13 => .opcrWr a d
  | 14 => .oprSetWr a d
  | _ => .oprClrWr a d

/-- 42_duart.md R150. -/
def decodeDuart (c : Config) (t : Access) : Instr :=
  if t.width ≠ .w8 then .duartBadwidth t
  else match c.duartReg (c.offset .duart t.addr), t.op with
    | none, .read => .duartUnimplRd t.addr
    | none, .write d => .duartUnimplWr t.addr (lowByte d)
    | some r, .read => decodeDuartRead t.addr r
    | some r, .write d => decodeDuartWrite t.addr (lowByte d) r

/-- 43_sinks.md R216, the tube window. -/
def decodeTube (t : Access) : Instr :=
  if t.width ≠ .w8 then .tubeBadwidth t
  else match t.op with
    | .read => .tubeRd t.addr
    | .write d => .tubeWr t.addr (lowByte d)

/-- 43_sinks.md R216, the VFD window. -/
def decodeVfd (t : Access) : Instr :=
  if t.width ≠ .w8 then .vfdBadwidth t
  else match t.op with
    | .read => .vfdRd t.addr
    | .write d => .vfdWr t.addr (lowByte d)

/-- The dispatch of 40_bus_router.md R100 after the mask: which row a transaction selects. -/
def decodeBus (c : Config) (serial : Bool) (t : Access) : Instr :=
  match c.region t.addr.toNat with
  | some .rom =>
    if c.straddles .rom t.addr t.width then .romStraddle t
    else match t.op with
      | .read => .romRd t.addr t.width
      | .write d => .romWr t.addr t.width d
  | some .ram =>
    if c.straddles .ram t.addr t.width then .ramStraddle t
    else match t.op with
      | .read => .ramRd t.addr t.width
      | .write d => .ramWr t.addr t.width d
  | some .duart => decodeDuart c t
  | some .rtc => decodeRtc serial t
  | some .tube => decodeTube t
  | some .vfd => decodeVfd t
  | none => match t.op with
    | .read => .unmappedRd t.addr t.width
    | .write d => .unmappedWr t.addr t.width d

/-! ## The rows of one command byte -/

/-- The CR.CMD row of a command byte (30_encoding.md R81). -/
def CmdWrite.cmdRow (w : CmdWrite) : Instr :=
  match w.cmd.toNat with
  | 0 => .cmdNop w
  | 1 => .cmdResetMrp w
  | 2 => .cmdResetRx w
  | 3 => .cmdResetTx w
  | 4 => .cmdResetErr w
  | 5 => .cmdResetBrkirq w
  | 6 => .cmdStartBreak w
  | 7 => .cmdStopBreak w
  | 8 => .cmdSetRxbrg w
  | 9 => .cmdClrRxbrg w
  | 10 => .cmdSetTxbrg w
  | 11 => .cmdClrTxbrg w
  | 12 => .cmdStandby w
  | 13 => .cmdActive w
  | 14 => .cmdRsvdE w
  | _ => .cmdRsvdF w

/-- The CR.TX row of a command byte (30_encoding.md R82). -/
def CmdWrite.txcRow (w : CmdWrite) : Instr :=
  match w.txc.toNat with
  | 0 => .txcNochange w
  | 1 => .txcEnable w
  | 2 => .txcDisable w
  | _ => .txcReserved w

/-- The CR.RX row of a command byte (30_encoding.md R82). -/
def CmdWrite.rxcRow (w : CmdWrite) : Instr :=
  match w.rxc.toNat with
  | 0 => .rxcNochange w
  | 1 => .rxcEnable w
  | 2 => .rxcDisable w
  | _ => .rxcReserved w

/-- A frame of a CR format: its transaction must be a command write, and the format says which of that
write's three rows is meant (30_encoding.md R89, log 3). -/
def decodeCommand (c : Config) (row : CmdWrite → Instr) (t : Access) : Except DecodeError Instr :=
  match decodeBus c false t with
  | .crWr a ch d => .ok (row ⟨a, ch, d⟩)
  | _ => .error .notCommandWrite

/-- An AGENT frame: key bit 0 is the channel, `data[7:0]` the byte, every other bit below the format 0 (log 2). -/
def decodeAgent (f : Frame) : Except DecodeError Instr :=
  if f.key.extractLsb' 1 35 = 0 ∧ f.data.extractLsb' 8 24 = 0 then
    .ok (.rxPush (if f.key.getLsbD 0 then .B else .A) (lowByte f.data))
  else .error .badAgent

/-- The transaction of a frame, refused where it has none. -/
def Frame.require (c : Config) (f : Frame) (k : Access → Except DecodeError Instr) : Except DecodeError Instr :=
  match f.access c with
  | some t => k t
  | none => .error .badWidth

/-- THE DECODER, total on every frame: `serial` is the DS1244's `activated`, the one mode bit that changes how
an encoding is read (30_encoding.md R85). -/
def decode (c : Config) (serial : Bool) (f : Frame) : Except DecodeError Instr :=
  match f.format.toNat with
  | 0 => f.require c fun t => .ok (decodeBus c serial t)
  | 1 => f.require c (decodeCommand c CmdWrite.cmdRow)
  | 2 => f.require c (decodeCommand c CmdWrite.txcRow)
  | 3 => f.require c (decodeCommand c CmdWrite.rxcRow)
  | 4 => decodeAgent f
  | _ => .error .badFormat

/-! ## Frames as bytes -/

/-- The `n` low bytes of a number, the least significant first (log 2). -/
def leBytes : Nat → Nat → List Byte
  | 0, _ => []
  | n + 1, v => BitVec.ofNat 8 v :: leBytes n (v / 256)

/-- The number whose bytes, the least significant first, are given. -/
def ofLeBytes : List Byte → Nat
  | [] => 0
  | b :: rest => b.toNat + 256 * ofLeBytes rest

/-- A frame as its nine bytes: five of the key, four of the data (log 2). -/
def Frame.toBytes (f : Frame) : List Byte := leBytes 5 f.key.toNat ++ leBytes 4 f.data.toNat

/-- The frame at the head of a byte stream, with the rest of the stream. -/
def Frame.ofBytes (bs : List Byte) : Option (Frame × List Byte) :=
  if bs.length < 9 then none
  else some (⟨BitVec.ofNat 40 (ofLeBytes (bs.take 5)), BitVec.ofNat 32 (ofLeBytes ((bs.drop 5).take 4))⟩, bs.drop 9)

/-- The decoder on any bytes: the operation and the rest of the stream, or the reason there is none. -/
def decodeBytes (c : Config) (serial : Bool) (bs : List Byte) : Except DecodeError (Instr × List Byte) :=
  match Frame.ofBytes bs with
  | none => .error .short
  | some (f, rest) => (decode c serial f).map fun i => (i, rest)

/-! ## The encoder -/

/-- Bits 34:32 of a key (30_encoding.md R75). -/
def Width.field : Width → BitVec 3
  | .w8 => 0b001#3
  | .w16 => 0b010#3
  | .w32 => 0b100#3

/-- Bit 35 of a key (30_encoding.md R75). -/
def BusOp.field : BusOp → BitVec 1
  | .read => 1#1
  | .write _ => 0#1

/-- The data word that follows the key; 0 for a read, which ignores it (30_encoding.md R70). -/
def BusOp.dataWord : BusOp → Word
  | .read => 0
  | .write d => d

/-- The frame of a transaction in format `fmt`. -/
def Access.frame (fmt : BitVec 4) (t : Access) : Frame :=
  ⟨fmt ++ t.op.field ++ t.width.field ++ t.addr, t.op.dataWord⟩

/-- The frame of a reader agent's push. -/
def pushFrame (ch : Channel) (b : Byte) : Frame :=
  ⟨0b0100#4 ++ 0#35 ++ (if ch = .B then 1#1 else 0#1), zext32 b⟩

/-- THE ENCODER: the words of a well-formed operation, from the columns of spec/opcode_table.json. -/
def encode : Instr → Frame
  | .romStraddle t => t.frame 0
  | .ramStraddle t => t.frame 0
  | .romRd a w => (Access.mk a w .read).frame 0
  | .romWr a w d => (Access.mk a w (.write d)).frame 0
  | .ramRd a w => (Access.mk a w .read).frame 0
  | .ramWr a w d => (Access.mk a w (.write d)).frame 0
  | .rtcBadwidth t => t.frame 0
  | .rtcWrNormal a d => (Access.write8 a d).frame 0
  | .rtcRdNormal a => (Access.read8 a).frame 0
  | .rtcWrSerial a d => (Access.write8 a d).frame 0
  | .rtcRdSerial a => (Access.read8 a).frame 0
  | .duartBadwidth t => t.frame 0
  | .srRd a _ => (Access.read8 a).frame 0
  | .rhrRd a _ => (Access.read8 a).frame 0
  | .mrWr a _ d => (Access.write8 a d).frame 0
  | .csrWr a _ d => (Access.write8 a d).frame 0
  | .crWr a _ d => (Access.write8 a d).frame 0
  | .thrWr a _ d => (Access.write8 a d).frame 0
  | .acrWr a d => (Access.write8 a d).frame 0
  | .imrWr a d => (Access.write8 a d).frame 0
  | .cturWr a d => (Access.write8 a d).frame 0
  | .ctlrWr a d => (Access.write8 a d).frame 0
  | .ivrWr a d => (Access.write8 a d).frame 0
  | .opcrWr a d => (Access.write8 a d).frame 0
  | .oprSetWr a d => (Access.write8 a d).frame 0
  | .oprClrWr a d => (Access.write8 a d).frame 0
  | .duartUnimplRd a => (Access.read8 a).frame 0
  | .duartUnimplWr a d => (Access.write8 a d).frame 0
  | .tubeBadwidth t => t.frame 0
  | .tubeWr a d => (Access.write8 a d).frame 0
  | .tubeRd a => (Access.read8 a).frame 0
  | .vfdBadwidth t => t.frame 0
  | .vfdWr a d => (Access.write8 a d).frame 0
  | .vfdRd a => (Access.read8 a).frame 0
  | .unmappedRd a w => (Access.mk a w .read).frame 0
  | .unmappedWr a w d => (Access.mk a w (.write d)).frame 0
  | .cmdNop c => c.access.frame 1
  | .cmdResetMrp c => c.access.frame 1
  | .cmdResetRx c => c.access.frame 1
  | .cmdResetTx c => c.access.frame 1
  | .cmdResetErr c => c.access.frame 1
  | .cmdResetBrkirq c => c.access.frame 1
  | .cmdStartBreak c => c.access.frame 1
  | .cmdStopBreak c => c.access.frame 1
  | .cmdSetRxbrg c => c.access.frame 1
  | .cmdClrRxbrg c => c.access.frame 1
  | .cmdSetTxbrg c => c.access.frame 1
  | .cmdClrTxbrg c => c.access.frame 1
  | .cmdStandby c => c.access.frame 1
  | .cmdActive c => c.access.frame 1
  | .cmdRsvdE c => c.access.frame 1
  | .cmdRsvdF c => c.access.frame 1
  | .txcNochange c => c.access.frame 2
  | .txcEnable c => c.access.frame 2
  | .txcDisable c => c.access.frame 2
  | .txcReserved c => c.access.frame 2
  | .rxcNochange c => c.access.frame 3
  | .rxcEnable c => c.access.frame 3
  | .rxcDisable c => c.access.frame 3
  | .rxcReserved c => c.access.frame 3
  | .rxPush ch b => pushFrame ch b

/-! ## The host's words: rows of spec/opcode_table.json -/

/-- The masked address of the command register of channel A: the first table offset of register index 2. -/
def Config.commandAddress (c : Config) : Word :=
  match c.duartMap.find? fun e => e.2 == Channel.A.index 2 with
  | some e => BitVec.ofNat 32 (c.duartBase + e.1)
  | none => BitVec.ofNat 32 c.duartBase

/-- The format a lone command byte is laid out in: the row of its highest field that is not 0 (log 14). -/
def commandFormat (w : Nat) : Nat :=
  if w / 16 % 16 ≠ 0 then 1 else if w / 4 % 4 ≠ 0 then 2 else if w % 4 ≠ 0 then 3 else 1

/-- A table word laid out as the nine bytes of a frame (log 14). A word of no bits is the AGENT row, of at most
8 bits a command byte written to channel A, of more bits a key. A key that leaves the one-hot width
0 is given width 16, the one width every row with a free width admits. -/
def tableBytes (c : Config) (nbits w : Nat) : List Byte :=
  if nbits = 0 then leBytes 9 (4 * 2 ^ 36)
  else if nbits ≤ 8 then
    leBytes 9 (c.commandAddress.toNat + 2 ^ 32 + commandFormat w * 2 ^ 36 + w % 256 * 2 ^ 40)
  else if w / 2 ^ 32 % 8 = 0 then leBytes 9 (w + 2 ^ 33)
  else leBytes 9 w

/-- The frame of a table word. -/
def tableFrame (c : Config) (nbits w : Nat) : Frame :=
  match Frame.ofBytes (tableBytes c nbits w) with
  | some (f, _) => f
  | none => ⟨0, 0⟩

/-- The operation the decoder reads from a word of spec/opcode_table.json, whose words are computed for the
reference configuration (30_encoding.md R89), in Normal mode. -/
def decodeTableWord (nbits w : Nat) : Option Instr :=
  match decodeBytes Config.reference false (tableBytes Config.reference nbits w) with
  | .ok (i, _) => some i
  | .error _ => none

end Sys2Proof
end

