-- ==== Sys2Proof/Machine/State.lean ====
section
/-! DEFINITION. Everything the spec gives the machine, as plain data, and its value after reset. -/

namespace Sys2Proof.Machine

/-- The kinds of 60_exceptions.md R229. `resourceError` belongs to the host's side and never enters `diag` (R227). -/
inductive ErrorKind where
  | busWidth
  | busUnsupported
  | unmappedAddress
  | protocolViolation
  | resourceError
  | rtcActivated
  | rtcCompleted
  | duartUnimplementedCommand
  deriving DecidableEq, Repr

/-- One entry of the diagnostic log (10_state.md R29, 60_exceptions.md R229). -/
structure DiagEntry where
  kind   : ErrorKind
  isRead : Bool
  addr   : Word
  width  : Width
  data   : Word
  deriving DecidableEq, Repr

/-- The signal of an answer (30_encoding.md R73). -/
inductive Signal where
  | proceed | abort
  deriving DecidableEq, Repr

/-- The answer of a transaction; `value` means something for a read only (30_encoding.md R73). -/
structure Answer where
  signal : Signal
  value  : Word
  deriving DecidableEq, Repr

/-- The per-channel state of the DUART (10_state.md R21 to R28). -/
structure DuartChannel where
  /-- transmitter enabled (R21) -/
  txOn           : Bool
  /-- receiver enabled (R21) -/
  rxOn           : Bool
  /-- receive queue, head first (R22) -/
  rxFifo         : List Byte
  /-- transmit queue, head first (R23) -/
  txFifo         : List Byte
  /-- error flags (R24) -/
  breakRx        : Bool
  parityErr      : Bool
  framingErr     : Bool
  overrunErr     : Bool
  /-- R25 -/
  breakChangeIrq : Bool
  /-- BRG-extend flags (R26) -/
  rxBrgExt       : Bool
  txBrgExt       : Bool
  /-- bytes transmitted, oldest first (R27) -/
  txOut          : List Byte
  /-- 0 or 1 (R28) -/
  modeRegPtr     : Fin 2
  deriving DecidableEq, Repr

/-- The state: the elements of 10_state.md R10; the configuration, which no step changes (00_scope.md R5, log 8);
and three fields of the model's own that no transaction can observe. -/
structure State where
  /-- the configuration record -/
  cfg            : Config
  /-- R12 -/
  rom            : Memory
  /-- R13: the bytes written since reset -/
  ram            : Memory
  /-- R16: the bytes other than 0x00 -/
  nvram          : Memory
  /-- R17 -/
  magicSeqOffset : Nat
  /-- R18: false is Normal mode, true is Serial mode -/
  activated      : Bool
  /-- R19 -/
  bitsToShift    : Nat
  /-- channel A -/
  chA            : DuartChannel
  /-- channel B -/
  chB            : DuartChannel
  /-- R30 -/
  timerPeriod    : BitVec 16
  /-- R31 -/
  irqVector      : BitVec 8
  /-- R29, oldest first -/
  diag           : List DiagEntry
  /-- R32 -/
  halted         : Bool
  /-- MODEL: what the environment still presents, oldest first (20_memory.md R54, R55; log 1) -/
  inputs         : List Frame
  /-- MODEL: the answer of the step's transaction, none when the step was no transaction (30_encoding.md R73, log 4) -/
  answer         : Option Answer
  /-- MODEL: how many free enable flags have been drawn (42_duart.md R155, R156, log 5) -/
  freeIdx        : Nat
  deriving DecidableEq, Repr

/-- Why the machine stops. -/
inductive Fault where
  /-- Raised by every transaction presented while `halted` is true: the router takes no step (40_bus_router.md R111).
  A stuck state. Safe: the spec gives such a transaction no answer. -/
  | halted
  deriving DecidableEq, Repr

/-- Why a step has no meaning. -/
inductive Refusal where
  /-- Raised by exec for a row not given its meaning. Safe: no claim can be proved about it. -/
  | notModelled (mnemonic : String)
  /-- Raised by fetch: the configuration breaks a constraint of 00_scope.md R6, which says to refuse it. Safe. -/
  | badConfig
  /-- Raised by fetch: the environment presents nothing, so no agent takes a step (10_state.md R15, log 15). Safe. -/
  | noInput
  /-- Raised by fetch: the frame is no operation, for the reason given; `badWidth` is 40_bus_router.md R112. Safe. -/
  | undecodable (why : DecodeError)
  deriving DecidableEq, Repr

/-- The outcome of one operation. -/
abbrev Result := Host.Outcome State Fault Refusal

/-- A channel after reset (70_reset_and_hazards.md R251). -/
def DuartChannel.reset : DuartChannel where
  txOn           := false
  rxOn           := false
  rxFifo         := []
  txFifo         := []
  breakRx        := false
  parityErr      := false
  framingErr     := false
  overrunErr     := false
  breakChangeIrq := false
  rxBrgExt       := false
  txBrgExt       := false
  txOut          := []
  modeRegPtr     := 0

/-- The state after the reset event with configuration `c` (70_reset_and_hazards.md R250, R251). `timerPeriod` and
`irqVector` are unspecified there; zero is the model's choice (logs 10, 11). -/
def State.resetWith (c : Config) : State where
  cfg            := c
  rom            := c.romImage
  ram            := []
  nvram          := c.nvramInit
  magicSeqOffset := 0
  activated      := false
  bitsToShift    := 0
  chA            := .reset
  chB            := .reset
  timerPeriod    := 0
  irqVector      := 0
  diag           := []
  halted         := false
  inputs         := []
  answer         := none
  freeIdx        := 0

/-- The state after reset with the reference configuration (log 8). -/
def State.reset : State := .resetWith .reference

end Sys2Proof.Machine
end

