-- ==== Sys2Proof/Machine/Ops.lean ====
section
/-! DEFINITION. The named operations over the state, and the one recovery path every refused access takes. -/

namespace Sys2Proof.Machine

/-! ## Bytes of the three arrays -/

/-- `rom[i]`; a byte the image does not give is a free value (10_state.md R12, 70_reset_and_hazards.md R254, log 7). -/
def State.romByte (s : State) (i : Nat) : Byte := (s.rom.find i).getD (Config.romFill i)

/-- `ram[i]`; a byte no transaction has written is a free value (10_state.md R13, log 6). -/
def State.ramByte (s : State) (i : Nat) : Byte := (s.ram.find i).getD (Config.ramPowerOn i)

/-- `nvram[i]`, an unlisted byte being 0x00 (10_state.md R16, log 9). -/
def State.nvramByte (s : State) (i : Nat) : Byte := (s.nvram.find i).getD 0

/-- `ram[i] <- v`. -/
def State.setRamByte (s : State) (i : Nat) (v : Byte) : State := { s with ram := s.ram.store none i v }

/-- `nvram[i] <- v`. -/
def State.setNvramByte (s : State) (i : Nat) (v : Byte) : State := { s with nvram := s.nvram.store (some 0) i v }

/-- `buf[off] <- b0; buf[off+1] <- b1; ...` in RAM (00_scope.md R8). -/
def State.setRamBytes (s : State) (off : Nat) : List Byte → State
  | [] => s
  | b :: rest => (s.setRamByte off b).setRamBytes (off + 1) rest

/-! ## Channels -/

/-- The copy of the per-channel state that `ch` names (42_duart.md R199). -/
def State.chan (s : State) (ch : Channel) : DuartChannel :=
  match ch with
  | .A => s.chA
  | .B => s.chB

/-- Write channel `ch`, the other being left alone (42_duart.md R199). -/
def State.setChan (s : State) (ch : Channel) (d : DuartChannel) : State :=
  match ch with
  | .A => { s with chA := d }
  | .B => { s with chB := d }

/-! ## Answers and the log -/

/-- `return (signal, value)` (00_scope.md R8). -/
def State.reply (s : State) (sig : Signal) (v : Word) : State := { s with answer := some ⟨sig, v⟩ }

/-- `diag(kind, t.isRead, A, t.width, ...)`: one entry appended (10_state.md R29, 60_exceptions.md R229). An
informational entry records the access that caused it (log 13). -/
def State.log (s : State) (kind : ErrorKind) (t : Access) : State :=
  { s with diag := s.diag ++ [⟨kind, t.isRead, t.addr, t.width, t.loggedData⟩] }

/-- The code of a kind (60_exceptions.md R229). -/
def ErrorKind.code : ErrorKind → Nat
  | .busWidth => 1
  | .busUnsupported => 2
  | .unmappedAddress => 3
  | .protocolViolation => 4
  | .resourceError => 5
  | .rtcActivated => 16
  | .rtcCompleted => 17
  | .duartUnimplementedCommand => 18

/-- "No fault recorded" means "no entry of code 1 to 4" (60_exceptions.md R224). -/
def ErrorKind.isFault (k : ErrorKind) : Bool := decide (1 ≤ k.code) && decide (k.code ≤ 4)

/-! ## Taking an error: the unhandled-access policy -/

/-- `Unhandled(kind, t)` (60_exceptions.md R226, R228): one entry; then, in strict mode and for an
UnmappedAddressError only, halt and abort; else proceed with value 0. There is nothing to return from (R233). -/
def State.unhandled (s : State) (kind : ErrorKind) (t : Access) : State :=
  if s.cfg.strict && kind == .unmappedAddress then
    ({ s.log kind t with halted := true }).reply .abort 0
  else (s.log kind t).reply .proceed 0

/-- The two kinds of a peripheral's `BusError` (40_bus_router.md R109). -/
inductive BusErrorKind where
  | width | unsupported
  deriving DecidableEq, Repr

/-- `raise BusError(kind)`, caught at the router's boundary (40_bus_router.md R110). -/
def State.busError (s : State) (kind : BusErrorKind) (t : Access) : State :=
  match kind with
  | .width => s.unhandled .busWidth t
  | .unsupported => s.unhandled .busUnsupported t

/-- A transaction answered by the router: none is while `halted` (40_bus_router.md R100, R111). -/
def State.transact (s : State) (f : State → State) : Result :=
  if s.halted then .fault .halted else .next (f s)

/-! ## The reset vector -/

/-- `initialSP = MemRead(rom, 0, 4)` (70_reset_and_hazards.md R256). -/
def State.initialSP (s : State) : Word := memRead s.romByte 0 .w32

/-- `initialPC = MemRead(rom, 4, 4)` (70_reset_and_hazards.md R256). -/
def State.initialPC (s : State) : Word := memRead s.romByte 4 .w32

end Sys2Proof.Machine
end

