-- ==== Sys2Proof/Machine/Flags.lean ====
section
/-! DEFINITION. Every flag computation of the block: the DUART status byte and the four error flags. -/

namespace Sys2Proof.Machine

/-- The status byte, bit 7 first (30_encoding.md R83, 42_duart.md R180). Bit 1 is the source's inverted
watermark, kept literally (70_reset_and_hazards.md R264). -/
def DuartChannel.status (c : DuartChannel) : Byte :=
  BitVec.ofBool c.breakRx
  ++ BitVec.ofBool c.framingErr
  ++ BitVec.ofBool c.parityErr
  ++ BitVec.ofBool c.overrunErr
  ++ BitVec.ofBool (decide (c.txFifo.length = 0) && c.txOn)
  ++ BitVec.ofBool (decide (c.txFifo.length < txReadyDepth) && c.txOn)
  ++ BitVec.ofBool (decide (c.rxFifo.length ≤ rxFullDepth))
  ++ BitVec.ofBool (decide (0 < c.rxFifo.length))

/-- Clear the four error flags (42_duart.md R161). -/
def DuartChannel.clearErrors (c : DuartChannel) : DuartChannel :=
  { c with breakRx := false, parityErr := false, framingErr := false, overrunErr := false }

end Sys2Proof.Machine
end

