-- ==== Sys2Proof/Machine/DuartCommand.lean ====
section
/-! DEFINITION. The DUART's command byte: the enable fields and the sixteen commands (42_duart.md R154 to R172). -/

namespace Sys2Proof.Machine

/-! ## Effects on the state -/

/-- Change the channel a command is written to. -/
def State.onChan (s : State) (ch : Channel) (f : DuartChannel → DuartChannel) : State :=
  s.setChan ch (f (s.chan ch))

/-- `txOn <- v` (R155). -/
def State.setTxOn (s : State) (c : CmdWrite) (v : Bool) : State := s.onChan c.ch fun d => { d with txOn := v }

/-- `rxOn <- v` (R156). -/
def State.setRxOn (s : State) (c : CmdWrite) (v : Bool) : State := s.onChan c.ch fun d => { d with rxOn := v }

/-- The next free enable flag, and the state in which it has been drawn (log 5). -/
def State.drawEnable (s : State) : Bool × State :=
  (Config.freeEnable s.freeIdx, { s with freeIdx := s.freeIdx + 1 })

/-- Pattern 11 of the transmitter field: `txOn` becomes unspecified (R155, log 5). -/
def State.freeTxOn (s : State) (c : CmdWrite) : State := s.drawEnable.2.setTxOn c s.drawEnable.1

/-- Pattern 11 of the receiver field: `rxOn` becomes unspecified (R156, log 5). -/
def State.freeRxOn (s : State) (c : CmdWrite) : State := s.drawEnable.2.setRxOn c s.drawEnable.1

/-- R158. -/
def State.resetModePointer (s : State) (c : CmdWrite) : State := s.onChan c.ch fun d => { d with modeRegPtr := 0 }

/-- R159. -/
def State.resetRx (s : State) (c : CmdWrite) : State := s.onChan c.ch fun d => { d with rxFifo := [], rxOn := false }

/-- R160. -/
def State.resetTx (s : State) (c : CmdWrite) : State := s.onChan c.ch fun d => { d with txFifo := [], txOn := false }

/-- R161. -/
def State.resetErrors (s : State) (c : CmdWrite) : State := s.onChan c.ch DuartChannel.clearErrors

/-- R162. -/
def State.resetBreakIrq (s : State) (c : CmdWrite) : State :=
  s.onChan c.ch fun d => { d with breakChangeIrq := false }

/-- R165, R166. -/
def State.setRxBrg (s : State) (c : CmdWrite) (v : Bool) : State := s.onChan c.ch fun d => { d with rxBrgExt := v }

/-- R167, R168. -/
def State.setTxBrg (s : State) (c : CmdWrite) (v : Bool) : State := s.onChan c.ch fun d => { d with txBrgExt := v }

/-- An unimplemented command: one informational entry and no other change (R163, R169, 60_exceptions.md R224). -/
def State.unimplemented (s : State) (c : CmdWrite) : State := s.log .duartUnimplementedCommand c.access

/-- The transmitter enable field of a command byte (R155). -/
def State.applyTxc (s : State) (c : CmdWrite) : State :=
  match c.txc.toNat with
  | 0 => s
  | 1 => s.setTxOn c true
  | 2 => s.setTxOn c false
  | _ => s.freeTxOn c

/-- The receiver enable field of a command byte (R156). -/
def State.applyRxc (s : State) (c : CmdWrite) : State :=
  match c.rxc.toNat with
  | 0 => s
  | 1 => s.setRxOn c true
  | 2 => s.setRxOn c false
  | _ => s.freeRxOn c

/-- The command nibble of a command byte (R157 to R172). -/
def State.applyCmd (s : State) (c : CmdWrite) : State :=
  match c.cmd.toNat with
  | 0 => s
  | 1 => s.resetModePointer c
  | 2 => s.resetRx c
  | 3 => s.resetTx c
  | 4 => s.resetErrors c
  | 5 => s.resetBreakIrq c
  | 8 => s.setRxBrg c true
  | 9 => s.setRxBrg c false
  | 10 => s.setTxBrg c true
  | 11 => s.setTxBrg c false
  | _ => s.unimplemented c

/-- A command byte: enable fields first, command second (R154). -/
def State.command (s : State) (c : CmdWrite) : State := ((s.applyTxc c).applyRxc c).applyCmd c

/-- A row of the command byte on its own, answered as the command write it is a part of (log 3). -/
def State.commandPart (s : State) (f : State → State) : Result :=
  s.transact fun s => (f s).reply .proceed 0

/-! ## Meanings -/

/-- CMD.NOP (R157). -/
def execCmdNop (_c : CmdWrite) (s : State) : Result := s.commandPart fun s => s

/-- CMD.RESET_MRP (R158). -/
def execCmdResetMrp (c : CmdWrite) (s : State) : Result := s.commandPart fun s => s.resetModePointer c

/-- CMD.RESET_RX (R159). -/
def execCmdResetRx (c : CmdWrite) (s : State) : Result := s.commandPart fun s => s.resetRx c

/-- CMD.RESET_TX (R160). -/
def execCmdResetTx (c : CmdWrite) (s : State) : Result := s.commandPart fun s => s.resetTx c

/-- CMD.RESET_ERR (R161). -/
def execCmdResetErr (c : CmdWrite) (s : State) : Result := s.commandPart fun s => s.resetErrors c

/-- CMD.RESET_BRKIRQ (R162). -/
def execCmdResetBrkirq (c : CmdWrite) (s : State) : Result := s.commandPart fun s => s.resetBreakIrq c

/-- CMD.START_BREAK (R163). -/
def execCmdStartBreak (c : CmdWrite) (s : State) : Result := s.commandPart fun s => s.unimplemented c

/-- CMD.STOP_BREAK (R164). -/
def execCmdStopBreak (c : CmdWrite) (s : State) : Result := s.commandPart fun s => s.unimplemented c

/-- CMD.SET_RXBRG (R165). -/
def execCmdSetRxbrg (c : CmdWrite) (s : State) : Result := s.commandPart fun s => s.setRxBrg c true

/-- CMD.CLR_RXBRG (R166). -/
def execCmdClrRxbrg (c : CmdWrite) (s : State) : Result := s.commandPart fun s => s.setRxBrg c false

/-- CMD.SET_TXBRG (R167). -/
def execCmdSetTxbrg (c : CmdWrite) (s : State) : Result := s.commandPart fun s => s.setTxBrg c true

/-- CMD.CLR_TXBRG (R168). -/
def execCmdClrTxbrg (c : CmdWrite) (s : State) : Result := s.commandPart fun s => s.setTxBrg c false

/-- CMD.STANDBY (R169): the device keeps working. -/
def execCmdStandby (c : CmdWrite) (s : State) : Result := s.commandPart fun s => s.unimplemented c

/-- CMD.ACTIVE (R170). -/
def execCmdActive (c : CmdWrite) (s : State) : Result := s.commandPart fun s => s.unimplemented c

/-- CMD.RSVD_E (R171). -/
def execCmdRsvdE (c : CmdWrite) (s : State) : Result := s.commandPart fun s => s.unimplemented c

/-- CMD.RSVD_F (R172). -/
def execCmdRsvdF (c : CmdWrite) (s : State) : Result := s.commandPart fun s => s.unimplemented c

/-- TXC.NOCHANGE (R155, pattern 00). -/
def execTxcNochange (_c : CmdWrite) (s : State) : Result := s.commandPart fun s => s

/-- TXC.ENABLE (R155, pattern 01). -/
def execTxcEnable (c : CmdWrite) (s : State) : Result := s.commandPart fun s => s.setTxOn c true

/-- TXC.DISABLE (R155, pattern 10). -/
def execTxcDisable (c : CmdWrite) (s : State) : Result := s.commandPart fun s => s.setTxOn c false

/-- TXC.RESERVED (R155, pattern 11). -/
def execTxcReserved (c : CmdWrite) (s : State) : Result := s.commandPart fun s => s.freeTxOn c

/-- RXC.NOCHANGE (R156, pattern 00). -/
def execRxcNochange (_c : CmdWrite) (s : State) : Result := s.commandPart fun s => s

/-- RXC.ENABLE (R156, pattern 01). -/
def execRxcEnable (c : CmdWrite) (s : State) : Result := s.commandPart fun s => s.setRxOn c true

/-- RXC.DISABLE (R156, pattern 10). -/
def execRxcDisable (c : CmdWrite) (s : State) : Result := s.commandPart fun s => s.setRxOn c false

/-- RXC.RESERVED (R156, pattern 11). -/
def execRxcReserved (c : CmdWrite) (s : State) : Result := s.commandPart fun s => s.freeRxOn c

end Sys2Proof.Machine
end

