-- ==== Sys2Proof/Machine/Duart.lean ====
section
/-! DEFINITION. The MC68681-class DUART's registers and its reader agents (42_duart.md). -/

namespace Sys2Proof.Machine

/-- An 8-bit write a stub accepts and discards: nothing changes and nothing is logged (R153, R186, R187, R191 to R193). -/
def State.acceptByte (s : State) : Result := s.transact fun s => s.reply .proceed 0

/-- Enqueue, dequeue at once and transmit (R182). -/
def DuartChannel.transmit (c : DuartChannel) (d : Byte) : DuartChannel :=
  match c.txFifo ++ [d] with
  | [] => c
  | b :: rest => { c with txFifo := rest, txOut := c.txOut ++ [b] }

/-- DUART.BADWIDTH (R151). -/
def execDuartBadwidth (t : Access) (s : State) : Result :=
  s.transact fun s => s.busError .width t

/-- SR.RD (R180): nothing is cleared or removed. -/
def execSrRd (_a : Word) (ch : Channel) (s : State) : Result :=
  s.transact fun s => s.reply .proceed (zext32 (s.chan ch).status)

/-- RHR.RD (R184): the head of the queue; on an empty queue a ProtocolViolation and 0, `proceed` in every mode. -/
def execRhrRd (a : Word) (ch : Channel) (s : State) : Result :=
  s.transact fun s =>
    match (s.chan ch).rxFifo with
    | b :: rest => (s.onChan ch fun d => { d with rxFifo := rest }).reply .proceed (zext32 b)
    | [] => (s.log .protocolViolation (.read8 a)).reply .proceed 0

/-- MR.WR (R152): the byte is discarded. -/
def execMrWr (_a : Word) (ch : Channel) (_d : Byte) (s : State) : Result :=
  s.transact fun s => (s.onChan ch fun c => { c with modeRegPtr := 1 }).reply .proceed 0

/-- CSR.WR (R153). -/
def execCsrWr (_a : Word) (_ch : Channel) (_d : Byte) (s : State) : Result := s.acceptByte

/-- CR.WR (R154). -/
def execCrWr (a : Word) (ch : Channel) (d : Byte) (s : State) : Result :=
  s.transact fun s => (s.command ⟨a, ch, d⟩).reply .proceed 0

/-- THR.WR (R182): performed whatever `txOn` is. -/
def execThrWr (_a : Word) (ch : Channel) (d : Byte) (s : State) : Result :=
  s.transact fun s => (s.onChan ch fun c => c.transmit d).reply .proceed 0

/-- ACR.WR (R186). -/
def execAcrWr (_a : Word) (_d : Byte) (s : State) : Result := s.acceptByte

/-- IMR.WR (R187). -/
def execImrWr (_a : Word) (_d : Byte) (s : State) : Result := s.acceptByte

/-- CTUR.WR (R188): `timerPeriod[15:8]`. -/
def execCturWr (_a : Word) (d : Byte) (s : State) : Result :=
  s.transact fun s => ({ s with timerPeriod := d ++ s.timerPeriod.extractLsb' 0 8 }).reply .proceed 0

/-- CTLR.WR (R189): `timerPeriod[7:0]`. -/
def execCtlrWr (_a : Word) (d : Byte) (s : State) : Result :=
  s.transact fun s => ({ s with timerPeriod := s.timerPeriod.extractLsb' 8 8 ++ d }).reply .proceed 0

/-- IVR.WR (R190). -/
def execIvrWr (_a : Word) (d : Byte) (s : State) : Result :=
  s.transact fun s => ({ s with irqVector := d }).reply .proceed 0

/-- OPCR.WR (R191). -/
def execOpcrWr (_a : Word) (_d : Byte) (s : State) : Result := s.acceptByte

/-- OPR.SET.WR (R192). -/
def execOprSetWr (_a : Word) (_d : Byte) (s : State) : Result := s.acceptByte

/-- OPR.CLR.WR (R193). -/
def execOprClrWr (_a : Word) (_d : Byte) (s : State) : Result := s.acceptByte

/-- DUART.UNIMPL.RD (R194). -/
def execDuartUnimplRd (a : Word) (s : State) : Result :=
  s.transact fun s => s.busError .unsupported (.read8 a)

/-- DUART.UNIMPL.WR (R195). -/
def execDuartUnimplWr (a : Word) (d : Byte) (s : State) : Result :=
  s.transact fun s => s.busError .unsupported (.write8 a d)

/-- RX.PUSH (R196): no transaction, so it is enabled in every state, `halted` or not (log 18). -/
def execRxPush (ch : Channel) (b : Byte) (s : State) : Result :=
  .next (s.onChan ch fun c => { c with rxFifo := c.rxFifo ++ [b] })

end Sys2Proof.Machine
end

