-- ==== Sys2Proof/Machine/Router.lean ====
section
/-! DEFINITION. The router's own operations: ROM, RAM and unmapped addresses (40_bus_router.md). -/

namespace Sys2Proof.Machine

/-- STRADDLE at the end of ROM (R105): nothing is performed in part. -/
def execRomStraddle (t : Access) (s : State) : Result :=
  s.transact fun s => s.unhandled .unmappedAddress t

/-- STRADDLE at the end of RAM (R105): nothing is performed in part. -/
def execRamStraddle (t : Access) (s : State) : Result :=
  s.transact fun s => s.unhandled .unmappedAddress t

/-- ROM.RD (R101). -/
def execRomRd (a : Word) (w : Width) (s : State) : Result :=
  s.transact fun s => s.reply .proceed (memRead s.romByte (s.cfg.offset .rom a) w)

/-- ROM.WR (R102): ROM is never changed. -/
def execRomWr (a : Word) (w : Width) (d : Word) (s : State) : Result :=
  s.transact fun s => s.unhandled .unmappedAddress ⟨a, w, .write d⟩

/-- RAM.RD (R103). -/
def execRamRd (a : Word) (w : Width) (s : State) : Result :=
  s.transact fun s => s.reply .proceed (memRead s.ramByte (s.cfg.offset .ram a) w)

/-- RAM.WR (R104): `ram[off .. off+n-1]`, the most significant byte at `off`. -/
def execRamWr (a : Word) (w : Width) (d : Word) (s : State) : Result :=
  s.transact fun s => (s.setRamBytes (s.cfg.offset .ram a) (beBytes w d)).reply .proceed 0

/-- UNMAPPED.RD (R106). -/
def execUnmappedRd (a : Word) (w : Width) (s : State) : Result :=
  s.transact fun s => s.unhandled .unmappedAddress ⟨a, w, .read⟩

/-- UNMAPPED.WR (R107). -/
def execUnmappedWr (a : Word) (w : Width) (d : Word) (s : State) : Result :=
  s.transact fun s => s.unhandled .unmappedAddress ⟨a, w, .write d⟩

end Sys2Proof.Machine
end

