-- ==== Sys2Proof/Machine/Rtc.lean ====
section
/-! DEFINITION. The DS1244-class RTC/NVRAM (41_ds1244.md): NVRAM, magic-sequence detector, Serial mode. -/

namespace Sys2Proof.Machine

/-- `MAGIC` (00_scope.md R4). -/
def magic : List Byte := [0xC5, 0x3A, 0xA3, 0x5C, 0xC5, 0x3A, 0xA3, 0x5C]

/-- `E[p] = MAGIC[p / 8][p % 8]` (30_encoding.md R77). -/
def magicBit (p : Nat) : Bool := (magic.getD (p / 8) 0).getLsbD (p % 8)

/-- The index of the NVRAM byte that address `a` of the window names (30_encoding.md R76). -/
def State.nvramAt (s : State) (a : Word) : Nat := nvramIndex (s.cfg.offset .rtc a)

/-- Steps 2 and 3 of R132: bit 0 of a Normal-mode write against the expected bit. A mismatching bit is not
tried again as bit 0 of a new attempt (R137). -/
def State.detect (s : State) (t : Access) (bit : Bool) : State :=
  if bit = magicBit s.magicSeqOffset then
    if s.magicSeqOffset = 63 then
      ({ s with magicSeqOffset := 0, activated := true, bitsToShift := serialLen }).log .rtcActivated t
    else { s with magicSeqOffset := s.magicSeqOffset + 1 }
  else { s with magicSeqOffset := 0 }

/-- One Serial-mode cycle, read or write (R134, R135). -/
def State.serialCycle (s : State) (t : Access) : State :=
  if s.bitsToShift - 1 = 0 then
    ({ s with bitsToShift := 0, activated := false }).log .rtcCompleted t
  else { s with bitsToShift := s.bitsToShift - 1 }

/-- RTC.BADWIDTH (R131). -/
def execRtcBadwidth (t : Access) (s : State) : Result :=
  s.transact fun s => s.busError .width t

/-- RTC.WR.NORMAL (R132): the byte is stored whatever the detector does. -/
def execRtcWrNormal (a : Word) (d : Byte) (s : State) : Result :=
  s.transact fun s =>
    ((s.setNvramByte (s.nvramAt a) d).detect (.write8 a d) (d.getLsbD 0)).reply .proceed 0

/-- RTC.RD.NORMAL (R133). -/
def execRtcRdNormal (a : Word) (s : State) : Result :=
  s.transact fun s => s.reply .proceed (zext32 (s.nvramByte (s.nvramAt a)))

/-- RTC.WR.SERIAL (R134): the consumed bit goes nowhere. -/
def execRtcWrSerial (a : Word) (d : Byte) (s : State) : Result :=
  s.transact fun s => (s.serialCycle (.write8 a d)).reply .proceed 0

/-- RTC.RD.SERIAL (R135): the value is always 0. -/
def execRtcRdSerial (a : Word) (s : State) : Result :=
  s.transact fun s => (s.serialCycle (.read8 a)).reply .proceed 0

end Sys2Proof.Machine
end

