-- ==== Sys2Proof/Machine/Sinks.lean ====
section
/-! DEFINITION. The tube display and the VFD: write-only sinks that hold no state (43_sinks.md R216). -/

namespace Sys2Proof.Machine

/-- A byte a sink accepts and discards (R210, R213). -/
def State.sinkByte (s : State) : Result := s.transact fun s => s.reply .proceed 0

/-- TUBE.BADWIDTH (R212). -/
def execTubeBadwidth (t : Access) (s : State) : Result :=
  s.transact fun s => s.busError .width t

/-- TUBE.WR (R210). -/
def execTubeWr (_a : Word) (_d : Byte) (s : State) : Result := s.sinkByte

/-- TUBE.RD (R211). -/
def execTubeRd (a : Word) (s : State) : Result :=
  s.transact fun s => s.busError .unsupported (.read8 a)

/-- VFD.BADWIDTH (R215). -/
def execVfdBadwidth (t : Access) (s : State) : Result :=
  s.transact fun s => s.busError .width t

/-- VFD.WR (R213). -/
def execVfdWr (_a : Word) (_d : Byte) (s : State) : Result := s.sinkByte

/-- VFD.RD (R214). -/
def execVfdRd (a : Word) (s : State) : Result :=
  s.transact fun s => s.busError .unsupported (.read8 a)

end Sys2Proof.Machine
end

