-- ==== Sys2Proof/Machine/Dispatch.lean ====
section
/-! DEFINITION. The dispatch of an operation to its meaning, one arm per row of spec/opcode_table.json. -/

namespace Sys2Proof.Machine

def exec (i : Instr) (s : State) : Host.Outcome State Fault Refusal :=
  match i with
  | .romStraddle t => Sys2Proof.Machine.execRomStraddle t s
  | .ramStraddle t => Sys2Proof.Machine.execRamStraddle t s
  | .romRd a w => Sys2Proof.Machine.execRomRd a w s
  | .romWr a w d => Sys2Proof.Machine.execRomWr a w d s
  | .ramRd a w => Sys2Proof.Machine.execRamRd a w s
  | .ramWr a w d => Sys2Proof.Machine.execRamWr a w d s
  | .rtcBadwidth t => Sys2Proof.Machine.execRtcBadwidth t s
  | .rtcWrNormal a d => Sys2Proof.Machine.execRtcWrNormal a d s
  | .rtcRdNormal a => Sys2Proof.Machine.execRtcRdNormal a s
  | .rtcWrSerial a d => Sys2Proof.Machine.execRtcWrSerial a d s
  | .rtcRdSerial a => Sys2Proof.Machine.execRtcRdSerial a s
  | .duartBadwidth t => Sys2Proof.Machine.execDuartBadwidth t s
  | .srRd a ch => Sys2Proof.Machine.execSrRd a ch s
  | .rhrRd a ch => Sys2Proof.Machine.execRhrRd a ch s
  | .mrWr a ch d => Sys2Proof.Machine.execMrWr a ch d s
  | .csrWr a ch d => Sys2Proof.Machine.execCsrWr a ch d s
  | .crWr a ch d => Sys2Proof.Machine.execCrWr a ch d s
  | .thrWr a ch d => Sys2Proof.Machine.execThrWr a ch d s
  | .acrWr a d => Sys2Proof.Machine.execAcrWr a d s
  | .imrWr a d => Sys2Proof.Machine.execImrWr a d s
  | .cturWr a d => Sys2Proof.Machine.execCturWr a d s
  | .ctlrWr a d => Sys2Proof.Machine.execCtlrWr a d s
  | .ivrWr a d => Sys2Proof.Machine.execIvrWr a d s
  | .opcrWr a d => Sys2Proof.Machine.execOpcrWr a d s
  | .oprSetWr a d => Sys2Proof.Machine.execOprSetWr a d s
  | .oprClrWr a d => Sys2Proof.Machine.execOprClrWr a d s
  | .duartUnimplRd a => Sys2Proof.Machine.execDuartUnimplRd a s
  | .duartUnimplWr a d => Sys2Proof.Machine.execDuartUnimplWr a d s
  | .tubeBadwidth t => Sys2Proof.Machine.execTubeBadwidth t s
  | .tubeWr a d => Sys2Proof.Machine.execTubeWr a d s
  | .tubeRd a => Sys2Proof.Machine.execTubeRd a s
  | .vfdBadwidth t => Sys2Proof.Machine.execVfdBadwidth t s
  | .vfdWr a d => Sys2Proof.Machine.execVfdWr a d s
  | .vfdRd a => Sys2Proof.Machine.execVfdRd a s
  | .unmappedRd a w => Sys2Proof.Machine.execUnmappedRd a w s
  | .unmappedWr a w d => Sys2Proof.Machine.execUnmappedWr a w d s
  | .cmdNop c => Sys2Proof.Machine.execCmdNop c s
  | .cmdResetMrp c => Sys2Proof.Machine.execCmdResetMrp c s
  | .cmdResetRx c => Sys2Proof.Machine.execCmdResetRx c s
  | .cmdResetTx c => Sys2Proof.Machine.execCmdResetTx c s
  | .cmdResetErr c => Sys2Proof.Machine.execCmdResetErr c s
  | .cmdResetBrkirq c => Sys2Proof.Machine.execCmdResetBrkirq c s
  | .cmdStartBreak c => Sys2Proof.Machine.execCmdStartBreak c s
  | .cmdStopBreak c => Sys2Proof.Machine.execCmdStopBreak c s
  | .cmdSetRxbrg c => Sys2Proof.Machine.execCmdSetRxbrg c s
  | .cmdClrRxbrg c => Sys2Proof.Machine.execCmdClrRxbrg c s
  | .cmdSetTxbrg c => Sys2Proof.Machine.execCmdSetTxbrg c s
  | .cmdClrTxbrg c => Sys2Proof.Machine.execCmdClrTxbrg c s
  | .cmdStandby c => Sys2Proof.Machine.execCmdStandby c s
  | .cmdActive c => Sys2Proof.Machine.execCmdActive c s
  | .cmdRsvdE c => Sys2Proof.Machine.execCmdRsvdE c s
  | .cmdRsvdF c => Sys2Proof.Machine.execCmdRsvdF c s
  | .txcNochange c => Sys2Proof.Machine.execTxcNochange c s
  | .txcEnable c => Sys2Proof.Machine.execTxcEnable c s
  | .txcDisable c => Sys2Proof.Machine.execTxcDisable c s
  | .txcReserved c => Sys2Proof.Machine.execTxcReserved c s
  | .rxcNochange c => Sys2Proof.Machine.execRxcNochange c s
  | .rxcEnable c => Sys2Proof.Machine.execRxcEnable c s
  | .rxcDisable c => Sys2Proof.Machine.execRxcDisable c s
  | .rxcReserved c => Sys2Proof.Machine.execRxcReserved c s
  | .rxPush ch b => Sys2Proof.Machine.execRxPush ch b s

end Sys2Proof.Machine
end

