-- ==== Sys2Proof/Machine/Fetch.lean ====
section
/-! DEFINITION. Taking the next stimulus: which operation the step runs, and on what state. -/

namespace Sys2Proof.Machine

/-- A frame of the bus master: any format but AGENT's (30_encoding.md R89). -/
def transactionFrame (f : Frame) : Bool := decide (f.format.toNat < 4)

/-- The next operation and the state it runs on: the head frame is taken and the last answer dropped. An outcome
instead, where the configuration breaks R6, where nothing is presented, where a transaction is presented while
`halted` (before any other test: 60_exceptions.md R230), or where the frame is no operation. -/
def State.fetch (s : State) : Except Result (Instr × State) :=
  if s.cfg.wf then
    match s.inputs with
    | [] => .error (.refused .noInput)
    | f :: rest =>
      if s.halted && transactionFrame f then .error (.fault .halted)
      else match decode s.cfg s.activated f with
        | .error e => .error (.refused (.undecodable e))
        | .ok i => .ok (i, { s with inputs := rest, answer := none })
  else .error (.refused .badConfig)

/-- Present a table word as the next stimulus (log 14). -/
def State.present (s : State) (nbits w : Nat) : State :=
  { s with inputs := tableFrame s.cfg nbits w :: s.inputs }

end Sys2Proof.Machine
end

