-- ==== Sys2Proof/Machine/Step.lean ====
section
/-! DEFINITION. One step: one transaction of the bus master or one push of a reader agent (20_memory.md R53, R54). -/

namespace Sys2Proof.Machine

/-- Take the next stimulus and run its operation. -/
def step (s : State) : Host.Outcome State Fault Refusal :=
  match s.fetch with
  | .error r => r
  | .ok (i, s') => exec i s'

/-- `s` with a word of spec/opcode_table.json presented as the very next stimulus (log 14, log 16). -/
def State.withFetchWord (s : State) (nbits w : Nat) : State := s.present nbits w

end Sys2Proof.Machine
end

