-- ==== Sys2Proof/Machine/OpcodeTable.lean ====
section
/-! DEFINITION. spec/opcode_table.json, column by column, with the first-match rule of 30_encoding.md R89: a second
description of the decoder, for statements to compare it with. The machine does not use it. -/

namespace Sys2Proof

/-- Column `format` (30_encoding.md R89). -/
inductive RowFormat where
  | bus36 | crCmd | crTx | crRx | agent
  deriving DecidableEq, Repr

/-- Column `cond`: past the region's last byte; `activated` false; `activated` true; no condition. -/
inductive RowCond where
  | straddle | normal | serial | always
  deriving DecidableEq, Repr

/-- One row of the table. -/
structure OpcodeRow where
  mnemonic : String
  format   : RowFormat
  bits     : Nat
  mask     : Nat
  cond     : RowCond
  deriving DecidableEq, Repr

/-- Rows of ROM and RAM. -/
def routerRows : List OpcodeRow :=
  [⟨"ROM.STRADDLE", .bus36, 0x000000000, 0x0FFFF0000, .straddle⟩,
   ⟨"RAM.STRADDLE", .bus36, 0x000050000, 0x0FFFF0000, .straddle⟩,
   ⟨"ROM.RD", .bus36, 0x800000000, 0x8FFFF0000, .always⟩,
   ⟨"ROM.WR", .bus36, 0x000000000, 0x8FFFF0000, .always⟩,
   ⟨"RAM.RD", .bus36, 0x800050000, 0x8FFFF0000, .always⟩,
   ⟨"RAM.WR", .bus36, 0x000050000, 0x8FFFF0000, .always⟩]

/-- Rows of the DS1244. -/
def rtcRows : List OpcodeRow :=
  [⟨"RTC.BADWIDTH", .bus36, 0x000020000, 0x1FFFF0000, .always⟩,
   ⟨"RTC.WR.NORMAL", .bus36, 0x100020000, 0x9FFFF0000, .normal⟩,
   ⟨"RTC.RD.NORMAL", .bus36, 0x900020000, 0x9FFFF0000, .normal⟩,
   ⟨"RTC.WR.SERIAL", .bus36, 0x100020000, 0x9FFFF0000, .serial⟩,
   ⟨"RTC.RD.SERIAL", .bus36, 0x900020000, 0x9FFFF0000, .serial⟩]

/-- Rows of the DUART. -/
def duartRows : List OpcodeRow :=
  [⟨"DUART.BADWIDTH", .bus36, 0x000010000, 0x1FFFF0000, .always⟩,
   ⟨"SR.RD", .bus36, 0x900010001, 0x9FFFFFFF7, .always⟩,
   ⟨"RHR.RD", .bus36, 0x900010003, 0x9FFFFFFF7, .always⟩,
   ⟨"MR.WR", .bus36, 0x100010000, 0x9FFFFFFF7, .always⟩,
   ⟨"CSR.WR", .bus36, 0x100010001, 0x9FFFFFFF7, .always⟩,
   ⟨"CR.WR", .bus36, 0x100010002, 0x9FFFFFFF7, .always⟩,
   ⟨"THR.WR", .bus36, 0x100010003, 0x9FFFFFFF7, .always⟩,
   ⟨"ACR.WR", .bus36, 0x100010004, 0x9FFFFFFFF, .always⟩,
   ⟨"IMR.WR", .bus36, 0x100010005, 0x9FFFFFFFF, .always⟩,
   ⟨"CTUR.WR", .bus36, 0x100010006, 0x9FFFFFFFF, .always⟩,
   ⟨"CTLR.WR", .bus36, 0x100010007, 0x9FFFFFFFF, .always⟩,
   ⟨"IVR.WR", .bus36, 0x10001000C, 0x9FFFFFFFF, .always⟩,
   ⟨"OPCR.WR", .bus36, 0x10001000D, 0x9FFFFFFFF, .always⟩,
   ⟨"OPR.SET.WR", .bus36, 0x10001000E, 0x9FFFFFFFF, .always⟩,
   ⟨"OPR.CLR.WR", .bus36, 0x10001000F, 0x9FFFFFFFF, .always⟩,
   ⟨"DUART.UNIMPL.RD", .bus36, 0x900010000, 0x9FFFF0000, .always⟩,
   ⟨"DUART.UNIMPL.WR", .bus36, 0x100010000, 0x9FFFF0000, .always⟩]

/-- Rows of the sinks. -/
def sinkRows : List OpcodeRow :=
  [⟨"TUBE.BADWIDTH", .bus36, 0x000030000, 0x1FFFF0000, .always⟩,
   ⟨"TUBE.WR", .bus36, 0x100030000, 0x9FFFF0000, .always⟩,
   ⟨"TUBE.RD", .bus36, 0x900030000, 0x9FFFF0000, .always⟩,
   ⟨"VFD.BADWIDTH", .bus36, 0x000040000, 0x1FFFF0000, .always⟩,
   ⟨"VFD.WR", .bus36, 0x100040000, 0x9FFFF0000, .always⟩,
   ⟨"VFD.RD", .bus36, 0x900040000, 0x9FFFF0000, .always⟩]

/-- Rows of no region. -/
def unmappedRows : List OpcodeRow :=
  [⟨"UNMAPPED.RD", .bus36, 0x800000000, 0x800000000, .always⟩,
   ⟨"UNMAPPED.WR", .bus36, 0x000000000, 0x800000000, .always⟩]

/-- Rows of the command nibble. -/
def commandRows : List OpcodeRow :=
  [⟨"CMD.NOP", .crCmd, 0x00, 0xF0, .always⟩,
   ⟨"CMD.RESET_MRP", .crCmd, 0x10, 0xF0, .always⟩,
   ⟨"CMD.RESET_RX", .crCmd, 0x20, 0xF0, .always⟩,
   ⟨"CMD.RESET_TX", .crCmd, 0x30, 0xF0, .always⟩,
   ⟨"CMD.RESET_ERR", .crCmd, 0x40, 0xF0, .always⟩,
   ⟨"CMD.RESET_BRKIRQ", .crCmd, 0x50, 0xF0, .always⟩,
   ⟨"CMD.START_BREAK", .crCmd, 0x60, 0xF0, .always⟩,
   ⟨"CMD.STOP_BREAK", .crCmd, 0x70, 0xF0, .always⟩,
   ⟨"CMD.SET_RXBRG", .crCmd, 0x80, 0xF0, .always⟩,
   ⟨"CMD.CLR_RXBRG", .crCmd, 0x90, 0xF0, .always⟩,
   ⟨"CMD.SET_TXBRG", .crCmd, 0xA0, 0xF0, .always⟩,
   ⟨"CMD.CLR_TXBRG", .crCmd, 0xB0, 0xF0, .always⟩,
   ⟨"CMD.STANDBY", .crCmd, 0xC0, 0xF0, .always⟩,
   ⟨"CMD.ACTIVE", .crCmd, 0xD0, 0xF0, .always⟩,
   ⟨"CMD.RSVD_E", .crCmd, 0xE0, 0xF0, .always⟩,
   ⟨"CMD.RSVD_F", .crCmd, 0xF0, 0xF0, .always⟩]

/-- Rows of the transmitter enable field. -/
def txEnableRows : List OpcodeRow :=
  [⟨"TXC.NOCHANGE", .crTx, 0x00, 0x0C, .always⟩,
   ⟨"TXC.ENABLE", .crTx, 0x04, 0x0C, .always⟩,
   ⟨"TXC.DISABLE", .crTx, 0x08, 0x0C, .always⟩,
   ⟨"TXC.RESERVED", .crTx, 0x0C, 0x0C, .always⟩]

/-- Rows of the receiver enable field. -/
def rxEnableRows : List OpcodeRow :=
  [⟨"RXC.NOCHANGE", .crRx, 0x00, 0x03, .always⟩,
   ⟨"RXC.ENABLE", .crRx, 0x01, 0x03, .always⟩,
   ⟨"RXC.DISABLE", .crRx, 0x02, 0x03, .always⟩,
   ⟨"RXC.RESERVED", .crRx, 0x03, 0x03, .always⟩]

/-- The rows of format BUS36, in the table's order. -/
def busRows : List OpcodeRow := routerRows ++ rtcRows ++ duartRows ++ sinkRows ++ unmappedRows

/-- The row of format AGENT, which no transaction selects. -/
def agentRow : OpcodeRow := ⟨"RX.PUSH", .agent, 0x0, 0x0, .always⟩

/-- The whole table. -/
def opcodeTable : List OpcodeRow := busRows ++ commandRows ++ txEnableRows ++ rxEnableRows ++ [agentRow]

/-- The 36-bit key of a transaction (30_encoding.md R75). -/
def Access.key (t : Access) : BitVec 36 := t.op.field ++ t.width.field ++ t.addr

/-- The `cond` of a row holds for a transaction in mode `serial`; the straddle test is `A[15:0] + width/8 > 0x10000`. -/
def RowCond.holds (serial : Bool) (t : Access) : RowCond → Bool
  | .straddle => decide (0x10000 < (t.addr.extractLsb' 0 16).toNat + t.width.bytes)
  | .normal => !serial
  | .serial => serial
  | .always => true

/-- A BUS36 row matches: `(key & mask) = match`, and its `cond` (30_encoding.md R89). -/
def OpcodeRow.matchesKey (r : OpcodeRow) (serial : Bool) (t : Access) : Bool :=
  decide (t.key &&& BitVec.ofNat 36 r.mask = BitVec.ofNat 36 r.bits) && r.cond.holds serial t

/-- A row of a CR format matches: `(data[7:0] & mask) = match` (30_encoding.md R89). -/
def OpcodeRow.matchesByte (r : OpcodeRow) (d : Byte) : Bool :=
  decide (d &&& BitVec.ofNat 8 r.mask = BitVec.ofNat 8 r.bits)

/-- The mnemonic of an operation's row. -/
def Instr.mnemonic : Instr → String
  | .romStraddle _ => "ROM.STRADDLE"
  | .ramStraddle _ => "RAM.STRADDLE"
  | .romRd _ _ => "ROM.RD"
  | .romWr _ _ _ => "ROM.WR"
  | .ramRd _ _ => "RAM.RD"
  | .ramWr _ _ _ => "RAM.WR"
  | .rtcBadwidth _ => "RTC.BADWIDTH"
  | .rtcWrNormal _ _ => "RTC.WR.NORMAL"
  | .rtcRdNormal _ => "RTC.RD.NORMAL"
  | .rtcWrSerial _ _ => "RTC.WR.SERIAL"
  | .rtcRdSerial _ => "RTC.RD.SERIAL"
  | .duartBadwidth _ => "DUART.BADWIDTH"
  | .srRd _ _ => "SR.RD"
  | .rhrRd _ _ => "RHR.RD"
  | .mrWr _ _ _ => "MR.WR"
  | .csrWr _ _ _ => "CSR.WR"
  | .crWr _ _ _ => "CR.WR"
  | .thrWr _ _ _ => "THR.WR"
  | .acrWr _ _ => "ACR.WR"
  | .imrWr _ _ => "IMR.WR"
  | .cturWr _ _ => "CTUR.WR"
  | .ctlrWr _ _ => "CTLR.WR"
  | .ivrWr _ _ => "IVR.WR"
  | .opcrWr _ _ => "OPCR.WR"
  | .oprSetWr _ _ => "OPR.SET.WR"
  | .oprClrWr _ _ => "OPR.CLR.WR"
  | .duartUnimplRd _ => "DUART.UNIMPL.RD"
  | .duartUnimplWr _ _ => "DUART.UNIMPL.WR"
  | .tubeBadwidth _ => "TUBE.BADWIDTH"
  | .tubeWr _ _ => "TUBE.WR"
  | .tubeRd _ => "TUBE.RD"
  | .vfdBadwidth _ => "VFD.BADWIDTH"
  | .vfdWr _ _ => "VFD.WR"
  | .vfdRd _ => "VFD.RD"
  | .unmappedRd _ _ => "UNMAPPED.RD"
  | .unmappedWr _ _ _ => "UNMAPPED.WR"
  | .cmdNop _ => "CMD.NOP"
  | .cmdResetMrp _ => "CMD.RESET_MRP"
  | .cmdResetRx _ => "CMD.RESET_RX"
  | .cmdResetTx _ => "CMD.RESET_TX"
  | .cmdResetErr _ => "CMD.RESET_ERR"
  | .cmdResetBrkirq _ => "CMD.RESET_BRKIRQ"
  | .cmdStartBreak _ => "CMD.START_BREAK"
  | .cmdStopBreak _ => "CMD.STOP_BREAK"
  | .cmdSetRxbrg _ => "CMD.SET_RXBRG"
  | .cmdClrRxbrg _ => "CMD.CLR_RXBRG"
  | .cmdSetTxbrg _ => "CMD.SET_TXBRG"
  | .cmdClrTxbrg _ => "CMD.CLR_TXBRG"
  | .cmdStandby _ => "CMD.STANDBY"
  | .cmdActive _ => "CMD.ACTIVE"
  | .cmdRsvdE _ => "CMD.RSVD_E"
  | .cmdRsvdF _ => "CMD.RSVD_F"
  | .txcNochange _ => "TXC.NOCHANGE"
  | .txcEnable _ => "TXC.ENABLE"
  | .txcDisable _ => "TXC.DISABLE"
  | .txcReserved _ => "TXC.RESERVED"
  | .rxcNochange _ => "RXC.NOCHANGE"
  | .rxcEnable _ => "RXC.ENABLE"
  | .rxcDisable _ => "RXC.DISABLE"
  | .rxcReserved _ => "RXC.RESERVED"
  | .rxPush _ _ => "RX.PUSH"

end Sys2Proof
end

