-- ==== Sys2Proof/Safety.lean ====
section
/-! DEFINITION. What a run may rely on: the invariant of the machine, and a log without faults. -/

namespace Sys2Proof.Machine

/-- 10_state.md R20: (a) Serial mode is exactly `bitsToShift > 0`, (b) no detector progress in Serial mode, (c) ranges. -/
structure State.RtcInv (s : State) : Prop where
  serial_iff  : s.activated = decide (0 < s.bitsToShift)
  no_progress : s.activated = true → s.magicSeqOffset = 0
  offset_le   : s.magicSeqOffset ≤ 63
  shift_le    : s.bitsToShift ≤ 64

/-- 42_duart.md R197 and R198: the transmit queue is empty and no error or break-change flag is set. -/
structure DuartChannel.Inv (c : DuartChannel) : Prop where
  tx_empty   : c.txFifo = []
  no_break   : c.breakRx = false
  no_parity  : c.parityErr = false
  no_framing : c.framingErr = false
  no_overrun : c.overrunErr = false
  no_irq     : c.breakChangeIrq = false

/-- The three arrays: ROM is its image (10_state.md R12); RAM and NVRAM are canonical and inside their sizes
(10_state.md R13, R16). -/
structure State.MemInv (s : State) : Prop where
  rom_image    : s.rom = s.cfg.romImage
  ram_wf       : s.ram.wf none = true
  ram_inside   : s.ram.inside s.cfg.ramSize = true
  nvram_wf     : s.nvram.wf (some 0) = true
  nvram_inside : s.nvram.inside nvramSize = true

/-- The invariant of the machine. `halt_strict`: without strict mode nothing halts (10_state.md R32); `no_resource`:
a ResourceError never enters `diag` (60_exceptions.md R227). -/
structure State.Inv (s : State) : Prop where
  cfg_wf      : s.cfg.wf = true
  mem         : s.MemInv
  rtc         : s.RtcInv
  chA         : s.chA.Inv
  chB         : s.chB.Inv
  halt_strict : s.halted = true → s.cfg.strict = true
  no_resource : ∀ e ∈ s.diag, e.kind ≠ .resourceError

/-- The premise "`diag` gains no fault entry" (70_reset_and_hazards.md R270, 60_exceptions.md R224). -/
def State.noFaultRecorded (s : State) : Bool := s.diag.all fun e => !e.kind.isFault

/-- Run operations one after another, stopping at the first that answers no next state. -/
def execAll : List Instr → State → Result
  | [], s => .next s
  | i :: rest, s =>
    match exec i s with
    | .next s' => execAll rest s'
    | .fault r => .fault r
    | .refused r => .refused r

/-- The bytes the reader agent of `ch` pushes among these operations (20_memory.md R56). -/
def pushedBytes (ch : Channel) : List Instr → List Byte
  | [] => []
  | .rxPush o b :: rest => if o = ch then b :: pushedBytes ch rest else pushedBytes ch rest
  | _ :: rest => pushedBytes ch rest

/-- The value of the last answer, 0 where there is none. -/
def State.answerValue (s : State) : Word := (s.answer.map Answer.value).getD 0

/-- The operation reads the receive holding register of `ch`. -/
def holdingRead (ch : Channel) : Instr → Bool
  | .rhrRd _ o => decide (o = ch)
  | _ => false

/-- The bytes returned by the successful holding-register reads of `ch` in a run (20_memory.md R56). -/
def receivedBytes (ch : Channel) : List Instr → State → List Byte
  | [], _ => []
  | i :: rest, s =>
    match exec i s with
    | .next s' =>
      if holdingRead ch i && !(s.chan ch).rxFifo.isEmpty then lowByte s'.answerValue :: receivedBytes ch rest s'
      else receivedBytes ch rest s'
    | .fault _ => []
    | .refused _ => []

/-- The operation resets the receiver of `ch` (42_duart.md R159). -/
def resetsReceiver (ch : Channel) : Instr → Bool
  | .crWr a o d => decide (o = ch) && decide ((CmdWrite.mk a o d).cmd = 2)
  | .cmdResetRx c => decide (c.ch = ch)
  | _ => false

/-- The rows that report an UnmappedAddressError (60_exceptions.md R223). -/
def reportsUnmapped : Instr → Bool
  | .romStraddle _ | .ramStraddle _ | .romWr _ _ _ | .unmappedRd _ _ | .unmappedWr _ _ _ => true
  | _ => false

/-- The operation is a transaction, not a reader agent's step (20_memory.md R53). -/
def isTransaction : Instr → Bool
  | .rxPush _ _ => false
  | _ => true

/-- The channel an operation is addressed to, for those on per-channel registers (42_duart.md R199). -/
def channelOf : Instr → Option Channel
  | .srRd _ ch | .rhrRd _ ch => some ch
  | .mrWr _ ch _ | .csrWr _ ch _ | .crWr _ ch _ | .thrWr _ ch _ => some ch
  | .cmdNop c | .cmdResetMrp c | .cmdResetRx c | .cmdResetTx c | .cmdResetErr c | .cmdResetBrkirq c => some c.ch
  | .cmdStartBreak c | .cmdStopBreak c | .cmdSetRxbrg c | .cmdClrRxbrg c | .cmdSetTxbrg c | .cmdClrTxbrg c => some c.ch
  | .cmdStandby c | .cmdActive c | .cmdRsvdE c | .cmdRsvdF c => some c.ch
  | .txcNochange c | .txcEnable c | .txcDisable c | .txcReserved c => some c.ch
  | .rxcNochange c | .rxcEnable c | .rxcDisable c | .rxcReserved c => some c.ch
  | .rxPush ch _ => some ch
  | _ => none

/-- A list of Serial-mode accesses: `none` is a read, `some d` a write of `d`. -/
def serialAccess (o : Word × Option Byte) : Instr :=
  match o.2 with
  | none => .rtcRdSerial o.1
  | some d => .rtcWrSerial o.1 d

end Sys2Proof.Machine
end

