-- ==== Sys2Proof/Certificates/Slice0/Obligations.lean ====
section
/-! DEFINITION. The statements for the provers, one def per obligation. `E[p]` of the magic sequence is bit `p` of
0x5CA33AC55CA33AC5 throughout, as 30_encoding.md R77 gives it, and not the model's own function. -/

open Sys2Proof
open Sys2Proof.Machine

/-! ## Encodings -/

/-- R75, R89: for every configuration, the decoder reads every well-formed operation back from its frame, every
operand at every value its row admits. -/
def Obligations.DecodeInvertsEncode : Prop :=
  ∀ (c : Config) (i : Instr) (m : Bool), i.wf c = true → i.selectedIn m = true → decode c m (encode i) = .ok i

/-- The same from the nine bytes of the frame at the head of a byte stream; the byte order is the model's
(log 2). -/
def Obligations.ByteStreamDecodeInvertsEncode : Prop :=
  ∀ (c : Config) (i : Instr) (m : Bool) (rest : List Byte), i.wf c = true → i.selectedIn m = true →
    decodeBytes c m ((encode i).toBytes ++ rest) = .ok (i, rest)

/-- R89: whatever the decoder reads is an operation the configuration can present, in the mode it was read in. -/
def Obligations.DecodedOperationIsWellFormed : Prop :=
  ∀ (c : Config) (m : Bool) (f : Frame) (i : Instr), decode c m f = .ok i → i.wf c = true ∧ i.selectedIn m = true

/-- R89: in the reference configuration the dispatch selects the first row of the table whose mask, match and
condition fit the transaction's 36-bit key. -/
def Obligations.DispatchIsFirstMatchingTableRow : Prop :=
  ∀ (m : Bool) (t : Access), Config.reference.mask t.addr = t.addr →
    (busRows.find? fun r => r.matchesKey m t).map OpcodeRow.mnemonic = some (decodeBus Config.reference m t).mnemonic

/-- R89: the three rows of a command byte are the first that match it in the formats CR.CMD, CR.TX and CR.RX. -/
def Obligations.CommandByteRowsAreFirstMatches : Prop :=
  ∀ w : CmdWrite,
    (commandRows.find? fun r => r.matchesByte w.data).map OpcodeRow.mnemonic = some w.cmdRow.mnemonic
    ∧ (txEnableRows.find? fun r => r.matchesByte w.data).map OpcodeRow.mnemonic = some w.txcRow.mnemonic
    ∧ (rxEnableRows.find? fun r => r.matchesByte w.data).map OpcodeRow.mnemonic = some w.rxcRow.mnemonic

/-- R75 and the programs of 95_test_vectors.md: a few lines with the keys printed there. -/
def Obligations.PrintedKeysDecode : Prop :=
  decode .reference false ⟨0xC00000004, 0⟩ = .ok (.romRd 0x000004 .w32)
  ∧ decode .reference false ⟨0x400050010, 0x11223344⟩ = .ok (.ramWr 0x050010 .w32 0x11223344)
  ∧ decode .reference false ⟨0xA0005FFFF, 0⟩ = .ok (.ramStraddle ⟨0x05FFFF, .w16, .read⟩)
  ∧ decode .reference false ⟨0x200060000, 0x1234⟩ = .ok (.unmappedWr 0x060000 .w16 0x1234)
  ∧ decode .reference false ⟨0x100020010, 0x01⟩ = .ok (.rtcWrNormal 0x020010 0x01)
  ∧ decode .reference true ⟨0x900020010, 0⟩ = .ok (.rtcRdSerial 0x020010)
  ∧ decode .reference false ⟨0x100010002, 0x21⟩ = .ok (.crWr 0x010002 .A 0x21)
  ∧ decode .reference false ⟨0x10001000B, 0x42⟩ = .ok (.thrWr 0x01000B .B 0x42)
  ∧ decode .reference false ⟨0xA00010003, 0⟩ = .ok (.duartBadwidth ⟨0x010003, .w16, .read⟩)
  ∧ decode .reference false ⟨0x900030000, 0⟩ = .ok (.tubeRd 0x030000)

/-- R50: two transactions whose addresses agree under the mask decode alike; a read's data word is ignored (R70). -/
def Obligations.MaskedAddressesAlias : Prop :=
  ∀ (c : Config) (m : Bool) (f g : Frame), f.format = g.format → f.format.toNat < 4 → f.width = g.width →
    f.isRead = g.isRead → (f.isRead = false → f.data = g.data) → f.address &&& c.addrMask = g.address &&& c.addrMask →
    decode c m f = decode c m g

/-- R72 (decision D9 of the spec): no bit of `data` above the width changes anything a step does. -/
def Obligations.DataAboveWidthIgnored : Prop :=
  ∀ (s : State) (f g : Frame) (rest : List Frame) (w : Width), f.key = g.key → f.format.toNat < 4 → f.width = some w →
    w.trunc f.data = w.trunc g.data → step { s with inputs := f :: rest } = step { s with inputs := g :: rest }

/-- R112 (decision D8 of the spec): a transaction whose width field is not one of the three one-hot values is
refused by name. -/
def Obligations.WidthOutsideInterfaceRefused : Prop :=
  ∀ (s : State) (f : Frame) (rest : List Frame), s.cfg.wf = true → s.halted = false → s.inputs = f :: rest →
    f.format.toNat < 4 → f.key.extractLsb' 32 3 ≠ 0b001#3 → f.key.extractLsb' 32 3 ≠ 0b010#3 →
    f.key.extractLsb' 32 3 ≠ 0b100#3 → step s = .refused (.undecodable .badWidth)

/-! ## Configuration and address map -/

/-- R6: a configuration is accepted exactly when it meets (a) to (e), its images being canonical and inside their
sizes; any other is refused at every step. -/
def Obligations.ConfigurationConstraints : Prop :=
  (∀ c : Config, c.wf = true ↔
    c.romBase = 0
    ∧ (∀ r q : Region, r ≠ q → ∀ x : Nat, ¬ (c.base r ≤ x ∧ x < c.base r + c.size r ∧ c.base q ≤ x ∧ x < c.base q + c.size q))
    ∧ (∀ r : Region, 0x10000 ∣ c.base r ∧ 0x10000 ∣ c.size r)
    ∧ (∀ r : Region, c.base r + c.size r ≤ c.addrMask.toNat + 1)
    ∧ 8 ≤ c.romSize
    ∧ c.romImage.wf none = true ∧ c.romImage.inside c.romSize = true
    ∧ c.nvramInit.wf (some 0) = true ∧ c.nvramInit.inside 0x8000 = true)
  ∧ ∀ s : State, s.cfg.wf = false → step s = .refused .badConfig

/-- R74: the mask; region select by range, at most one region matching; the offset, which for a window is A[15:0],
the window being selected by A[31:16]; and the reference configuration's values of A[31:16] and its offsets. -/
def Obligations.AddressDecodesByRange : Prop :=
  (∀ (c : Config) (f : Frame) (t : Access), f.access c = some t → t.addr = f.address &&& c.addrMask)
  ∧ (∀ c : Config, c.wf = true → ∀ a : Word,
      (∀ r : Region, c.region a.toNat = some r ↔ c.base r ≤ a.toNat ∧ a.toNat < c.base r + c.size r)
      ∧ (c.region a.toNat = none ↔ ∀ r : Region, ¬ (c.base r ≤ a.toNat ∧ a.toNat < c.base r + c.size r))
      ∧ (∀ r : Region, c.offset r a = a.toNat - c.base r)
      ∧ ∀ r : Region, r ≠ .rom → r ≠ .ram →
          (c.region a.toNat = some r ↔ (a.extractLsb' 16 16).toNat = c.base r / 0x10000)
          ∧ (c.region a.toNat = some r → c.offset r a = (a.extractLsb' 0 16).toNat))
  ∧ ∀ a : Word, (Config.reference.region a.toNat =
      match (a.extractLsb' 16 16).toNat with
      | 0 => some .rom
      | 1 => some .duart
      | 2 => some .rtc
      | 3 => some .tube
      | 4 => some .vfd
      | 5 => some .ram
      | _ => none)
    ∧ ∀ r : Region, Config.reference.region a.toNat = some r → Config.reference.offset r a = (a.extractLsb' 0 16).toNat

/-! ## Steps -/

/-- R53, R54: when the head frame decodes to `i`, the step is `i` run on the state with that frame taken and the last
answer dropped, unless the frame is a transaction and the router is halted. -/
def Obligations.StepRunsDecodedOperation : Prop :=
  ∀ (s : State) (f : Frame) (rest : List Frame) (i : Instr), s.cfg.wf = true → s.inputs = f :: rest →
    (s.halted = true → 4 ≤ f.format.toNat) → decode s.cfg s.activated f = .ok i →
    step s = exec i { s with inputs := rest, answer := none }

/-- R111 (decision D42 of the spec), R230: while `halted` no transaction has an answer, at either level. -/
def Obligations.HaltedRouterTakesNoStep : Prop :=
  (∀ (s : State) (i : Instr), s.halted = true → (∀ ch b, i ≠ .rxPush ch b) → exec i s = .fault .halted)
  ∧ ∀ (s : State) (f : Frame) (rest : List Frame), s.cfg.wf = true → s.halted = true → s.inputs = f :: rest →
      f.format.toNat < 4 → step s = .fault .halted

/-- R85, R220: every operation completes while the router is not halted, and every transaction is answered. -/
def Obligations.EveryAccessIsAnswered : Prop :=
  ∀ (s : State) (i : Instr), s.halted = false →
    ∃ t, exec i s = .next t ∧ ((∀ ch b, i ≠ .rxPush ch b) → ∃ a, t.answer = some a)

/-! ## Reset -/

/-- R251, R36: what reset leaves, for every configuration; the decided values are the spec's decision D28. The two
registers the spec leaves unspecified are not spoken of. -/
def Obligations.ResetStateValues : Prop :=
  ∀ c : Config, let s := State.resetWith c
    s.cfg = c ∧ s.rom = c.romImage ∧ (∀ x, s.ram.find x = none) ∧ s.nvram = c.nvramInit
    ∧ s.magicSeqOffset = 0 ∧ s.activated = false ∧ s.bitsToShift = 0 ∧ s.diag = [] ∧ s.halted = false
    ∧ ∀ ch, (s.chan ch).txOn = false ∧ (s.chan ch).rxOn = false ∧ (s.chan ch).rxFifo = [] ∧ (s.chan ch).txFifo = []
        ∧ (s.chan ch).breakRx = false ∧ (s.chan ch).parityErr = false ∧ (s.chan ch).framingErr = false
        ∧ (s.chan ch).overrunErr = false ∧ (s.chan ch).breakChangeIrq = false ∧ (s.chan ch).rxBrgExt = false
        ∧ (s.chan ch).txBrgExt = false ∧ (s.chan ch).txOut = [] ∧ (s.chan ch).modeRegPtr = 0
        ∧ ∀ a, exec (.srRd a ch) s = .next { s with answer := some ⟨.proceed, 0x02⟩ }

/-- R256: the reset vector is the big-endian words at ROM offsets 0 and 4, with the source's example, and the bus reads
the same words there. -/
def Obligations.ResetVectorIsFirstEightRomBytes : Prop :=
  (∀ s : State,
    s.initialSP = s.romByte 0 ++ s.romByte 1 ++ s.romByte 2 ++ s.romByte 3
    ∧ s.initialPC = s.romByte 4 ++ s.romByte 5 ++ s.romByte 6 ++ s.romByte 7
    ∧ (s.cfg.wf = true → s.halted = false →
        exec (.romRd 0 .w32) s = .next { s with answer := some ⟨.proceed, s.initialSP⟩ }
        ∧ exec (.romRd 4 .w32) s = .next { s with answer := some ⟨.proceed, s.initialPC⟩ }))
  ∧ ∀ s : State, s.rom = [(0, 0x00), (1, 0x06), (2, 0x00), (3, 0x00), (4, 0x00), (5, 0x00), (6, 0x10), (7, 0x00)] →
      s.initialSP = 0x00060000 ∧ s.initialPC = 0x00001000

/-! ## Invariants -/

/-- R20, R197, R198 and the arrays' form hold after reset, for every legal configuration. -/
def Obligations.ResetEstablishesInvariant : Prop :=
  ∀ c : Config, c.wf = true → (State.resetWith c).Inv

/-- R20, R197, R198, R12, R32 and the arrays' canonical form: from every state that meets the invariant, whatever
is presented, a step gives a state that meets it. -/
def Obligations.StepKeepsInvariant : Prop :=
  ∀ s t : State, s.Inv → step s = .next t → t.Inv

/-- R12: no operation changes ROM, and after reset it is ROM_IMAGE; nor does any change the configuration (R14). -/
def Obligations.RomNeverChanges : Prop :=
  (∀ (i : Instr) (s t : State), exec i s = .next t → t.rom = s.rom ∧ t.cfg = s.cfg)
  ∧ ∀ c : Config, (State.resetWith c).rom = c.romImage

/-- R29 (decision D11 of the spec), R230: the log only grows, by at most one entry an operation. -/
def Obligations.LogIsAppendOnly : Prop :=
  ∀ (i : Instr) (s t : State), exec i s = .next t → ∃ es, t.diag = s.diag ++ es ∧ es.length ≤ 1

/-- R73, R228 (decisions D10, D35 of the spec): a transaction answers `abort`, and halts the router, exactly in strict
mode on an UnmappedAddressError. -/
def Obligations.AbortOnlyOnStrictUnmappedAccess : Prop :=
  ∀ (i : Instr) (s t : State), isTransaction i = true → exec i s = .next t →
    (t.answer.map Answer.signal = some .abort ↔ s.cfg.strict = true ∧ reportsUnmapped i = true)
    ∧ (t.halted = true ↔ s.cfg.strict = true ∧ reportsUnmapped i = true)

/-! ## ROM and RAM -/

/-- R101, R40: a ROM read assembles its bytes big-endian, zero-extended, and changes nothing; which reads it is. -/
def Obligations.RomReadIsBigEndian : Prop :=
  ∀ (s : State) (a : Word), s.halted = false → let off := a.toNat - s.cfg.romBase
    exec (.romRd a .w8) s = .next { s with answer := some ⟨.proceed, (s.romByte off).setWidth 32⟩ }
    ∧ exec (.romRd a .w16) s =
        .next { s with answer := some ⟨.proceed, (s.romByte off ++ s.romByte (off + 1)).setWidth 32⟩ }
    ∧ exec (.romRd a .w32) s = .next { s with answer := some ⟨.proceed,
        s.romByte off ++ s.romByte (off + 1) ++ s.romByte (off + 2) ++ s.romByte (off + 3)⟩ }
    ∧ ∀ m w, s.cfg.fits .rom a w = true → decodeBus s.cfg m ⟨a, w, .read⟩ = .romRd a w

/-- R103, R40: a RAM read assembles its bytes big-endian, zero-extended, and changes nothing; which reads it is. -/
def Obligations.RamReadIsBigEndian : Prop :=
  ∀ (s : State) (a : Word), s.halted = false → let off := a.toNat - s.cfg.ramBase
    exec (.ramRd a .w8) s = .next { s with answer := some ⟨.proceed, (s.ramByte off).setWidth 32⟩ }
    ∧ exec (.ramRd a .w16) s =
        .next { s with answer := some ⟨.proceed, (s.ramByte off ++ s.ramByte (off + 1)).setWidth 32⟩ }
    ∧ exec (.ramRd a .w32) s = .next { s with answer := some ⟨.proceed,
        s.ramByte off ++ s.ramByte (off + 1) ++ s.ramByte (off + 2) ++ s.ramByte (off + 3)⟩ }
    ∧ ∀ m w, s.cfg.fits .ram a w = true → decodeBus s.cfg m ⟨a, w, .read⟩ = .ramRd a w

/-- R104: a RAM write stores byte `8(n-k)-1 : 8(n-k-1)` of the data at `off + k`, leaves every other byte and all other
state alone, and answers `proceed`; which writes it is. -/
def Obligations.RamWriteStoresBigEndian : Prop :=
  ∀ (s : State) (a : Word) (w : Width) (d : Word), s.halted = false → let off := a.toNat - s.cfg.ramBase
    (∀ m, s.cfg.fits .ram a w = true → decodeBus s.cfg m ⟨a, w, .write d⟩ = .ramWr a w d)
    ∧ ∃ t, exec (.ramWr a w d) s = .next t
      ∧ t = { s with ram := t.ram, answer := some ⟨.proceed, 0⟩ }
      ∧ (∀ k, k < w.bytes → t.ramByte (off + k) = d.extractLsb' (8 * (w.bytes - k - 1)) 8)
      ∧ ∀ x, (x < off ∨ off + w.bytes ≤ x) → t.ramByte x = s.ramByte x

/-- R42: after a 32-bit write, narrower reads inside it return the bytes R40 places. -/
def Obligations.NarrowReadsAfterWideWrite : Prop :=
  ∀ (s t : State) (a v : Word), s.cfg.wf = true → s.cfg.fits .ram a .w32 = true → exec (.ramWr a .w32 v) s = .next t →
    exec (.ramRd (a + 1) .w8) t = .next { t with answer := some ⟨.proceed, (v.extractLsb' 16 8).setWidth 32⟩ }
    ∧ exec (.ramRd (a + 2) .w16) t = .next { t with answer := some ⟨.proceed, (v.extractLsb' 0 16).setWidth 32⟩ }
    ∧ exec (.ramRd (a + 1) .w16) t = .next { t with answer := some ⟨.proceed, (v.extractLsb' 8 16).setWidth 32⟩ }
    ∧ exec (.ramRd a .w32) t = .next { t with answer := some ⟨.proceed, v⟩ }

/-! ## Refused accesses -/

/-- R106, R107, R226: an unmapped access logs one entry; it answers `proceed` with 0, or in strict mode halts and
answers `abort` with 0; an access is one of the two when its address is in no region. -/
def Obligations.UnmappedAccessPolicy : Prop :=
  ∀ (s : State) (a : Word) (w : Width) (d : Word), s.halted = false →
    exec (.unmappedRd a w) s = .next { s with
      diag := s.diag ++ [⟨.unmappedAddress, true, a, w, 0⟩], halted := s.cfg.strict,
      answer := some ⟨if s.cfg.strict then .abort else .proceed, 0⟩ }
    ∧ exec (.unmappedWr a w d) s = .next { s with
      diag := s.diag ++ [⟨.unmappedAddress, false, a, w, w.trunc d⟩], halted := s.cfg.strict,
      answer := some ⟨if s.cfg.strict then .abort else .proceed, 0⟩ }
    ∧ (s.cfg.region a.toNat = none → ∀ m, decodeBus s.cfg m ⟨a, w, .read⟩ = .unmappedRd a w
        ∧ decodeBus s.cfg m ⟨a, w, .write d⟩ = .unmappedWr a w d)

/-- R102, R105 (decisions D5, D7 of the spec): a ROM write and a straddling access are UnmappedAddressErrors with no
partial effect. -/
def Obligations.RomWriteAndStraddlePolicy : Prop :=
  ∀ (s : State) (a : Word) (w : Width) (d : Word) (t : Access), s.halted = false →
    let sig := if s.cfg.strict then Signal.abort else Signal.proceed
    exec (.romWr a w d) s = .next { s with
      diag := s.diag ++ [⟨.unmappedAddress, false, a, w, w.trunc d⟩], halted := s.cfg.strict, answer := some ⟨sig, 0⟩ }
    ∧ exec (.romStraddle t) s = .next { s with
      diag := s.diag ++ [⟨.unmappedAddress, t.isRead, t.addr, t.width, t.loggedData⟩], halted := s.cfg.strict,
      answer := some ⟨sig, 0⟩ }
    ∧ exec (.ramStraddle t) s = .next { s with
      diag := s.diag ++ [⟨.unmappedAddress, t.isRead, t.addr, t.width, t.loggedData⟩], halted := s.cfg.strict,
      answer := some ⟨sig, 0⟩ }

/-- R221: a transaction of width 16 or 32 to any of the four windows is a BusWidthError, in every mode: one entry, value
0, `proceed`, and no other change. -/
def Obligations.WideWindowAccessIsWidthError : Prop :=
  ∀ (s : State) (m : Bool) (t : Access) (r : Region), s.halted = false → s.cfg.region t.addr.toNat = some r → r ≠ .rom →
    r ≠ .ram → t.width ≠ .w8 →
    exec (decodeBus s.cfg m t) s = .next { s with
      diag := s.diag ++ [⟨.busWidth, t.isRead, t.addr, t.width, t.loggedData⟩], answer := some ⟨.proceed, 0⟩ }

/-- R131, R151, and R212, R215 (decision D13 of the spec): the four rows of a wrong width. -/
def Obligations.BadWidthRowsLogAndProceed : Prop :=
  ∀ (s : State) (t : Access), s.halted = false →
    let u := { s with diag := s.diag ++ [⟨.busWidth, t.isRead, t.addr, t.width, t.loggedData⟩], answer := some ⟨.proceed, 0⟩ }
    exec (.rtcBadwidth t) s = .next u ∧ exec (.duartBadwidth t) s = .next u
    ∧ exec (.tubeBadwidth t) s = .next u ∧ exec (.vfdBadwidth t) s = .next u

/-- R211, R214: an 8-bit read of a sink is rejected with an entry and answers 0. -/
def Obligations.SinkReadIsRejected : Prop :=
  ∀ (s : State) (a : Word), s.halted = false →
    let u := { s with diag := s.diag ++ [⟨.busUnsupported, true, a, .w8, 0⟩], answer := some ⟨.proceed, 0⟩ }
    exec (.tubeRd a) s = .next u ∧ exec (.vfdRd a) s = .next u
    ∧ (s.cfg.region a.toNat = some .tube → ∀ m, decodeBus s.cfg m (.read8 a) = .tubeRd a)
    ∧ (s.cfg.region a.toNat = some .vfd → ∀ m, decodeBus s.cfg m (.read8 a) = .vfdRd a)

/-- R210, R213: an 8-bit write to a sink is accepted and discarded. -/
def Obligations.SinkWriteIsAccepted : Prop :=
  ∀ (s : State) (a : Word) (d : Byte), s.halted = false →
    exec (.tubeWr a d) s = .next { s with answer := some ⟨.proceed, 0⟩ }
    ∧ exec (.vfdWr a d) s = .next { s with answer := some ⟨.proceed, 0⟩ }
    ∧ (s.cfg.region a.toNat = some .tube → ∀ m, decodeBus s.cfg m (.write8 a d) = .tubeWr a d)
    ∧ (s.cfg.region a.toNat = some .vfd → ∀ m, decodeBus s.cfg m (.write8 a d) = .vfdWr a d)

/-- R194, R195 (decision D26 of the spec): an unimplemented DUART position is rejected with an entry, in every mode. -/
def Obligations.UnimplementedDuartAccess : Prop :=
  ∀ (s : State) (a : Word) (d : Byte), s.halted = false →
    exec (.duartUnimplRd a) s = .next { s with
      diag := s.diag ++ [⟨.busUnsupported, true, a, .w8, 0⟩], answer := some ⟨.proceed, 0⟩ }
    ∧ exec (.duartUnimplWr a d) s = .next { s with
      diag := s.diag ++ [⟨.busUnsupported, false, a, .w8, d.setWidth 32⟩], answer := some ⟨.proceed, 0⟩ }

/-! ## The DS1244 -/

/-- R77: the 64 expected bits are those of 0x5CA33AC55CA33AC5, bit 0 first. -/
def Obligations.MagicSequenceBits : Prop :=
  ∀ p, p < 64 → magicBit p = (0x5CA33AC55CA33AC5#64).getLsbD p

/-- R133, R76 (decision D16 of the spec): a Normal-mode read returns the NVRAM byte at `off & 0x7FFF` and changes nothing. -/
def Obligations.NormalReadReturnsNvram : Prop :=
  ∀ (s : State) (a : Word), s.halted = false →
    exec (.rtcRdNormal a) s = .next { s with
      answer := some ⟨.proceed, (s.nvramByte ((a.toNat - s.cfg.rtcBase) % 0x8000)).setWidth 32⟩ }

/-- R132, R137 (decisions D14, D15 of the spec): a Normal-mode write stores its byte and feeds bit 0 to the detector. The
entry of an activation is fixed in kind and address; its other fields are the model's (log 13). -/
def Obligations.NormalWriteStoresAndDetects : Prop :=
  ∀ (s : State) (a : Word) (d : Byte), s.halted = false → s.magicSeqOffset ≤ 63 →
    let k := (a.toNat - s.cfg.rtcBase) % 0x8000
    let p := s.magicSeqOffset
    let hit := d.getLsbD 0 = (0x5CA33AC55CA33AC5#64).getLsbD p
    ∃ t, exec (.rtcWrNormal a d) s = .next t
      ∧ t = { s with
          nvram := t.nvram, magicSeqOffset := t.magicSeqOffset, activated := t.activated,
          bitsToShift := t.bitsToShift, diag := t.diag, answer := some ⟨.proceed, 0⟩ }
      ∧ t.nvramByte k = d ∧ (∀ x, x ≠ k → t.nvramByte x = s.nvramByte x)
      ∧ (¬ hit → t.magicSeqOffset = 0 ∧ t.activated = s.activated ∧ t.bitsToShift = s.bitsToShift ∧ t.diag = s.diag)
      ∧ (hit → p ≠ 63 →
          t.magicSeqOffset = p + 1 ∧ t.activated = s.activated ∧ t.bitsToShift = s.bitsToShift ∧ t.diag = s.diag)
      ∧ (hit → p = 63 → t.magicSeqOffset = 0 ∧ t.activated = true ∧ t.bitsToShift = 64
          ∧ ∃ e, t.diag = s.diag ++ [e] ∧ e.kind = .rtcActivated ∧ e.addr = a)

/-- R135: a Serial-mode read decrements `bitsToShift`, returns 0 and touches nothing else; at 0 the device is back in
Normal mode with one RtcCompleted entry. -/
def Obligations.SerialReadReturnsZero : Prop :=
  ∀ (s : State) (a : Word), s.halted = false → 1 ≤ s.bitsToShift →
    (s.bitsToShift ≠ 1 → exec (.rtcRdSerial a) s =
      .next { s with bitsToShift := s.bitsToShift - 1, answer := some ⟨.proceed, 0⟩ })
    ∧ (s.bitsToShift = 1 → ∃ e, e.kind = .rtcCompleted ∧ e.addr = a ∧ exec (.rtcRdSerial a) s = .next { s with
        bitsToShift := 0, activated := false, diag := s.diag ++ [e], answer := some ⟨.proceed, 0⟩ })
    ∧ (s.cfg.region a.toNat = some .rtc → decodeBus s.cfg true (.read8 a) = .rtcRdSerial a)

/-- R134 (decisions D16, D17 of the spec): a Serial-mode write uses up one cycle; its byte goes nowhere. -/
def Obligations.SerialWriteIsDiscarded : Prop :=
  ∀ (s : State) (a : Word) (d : Byte), s.halted = false → 1 ≤ s.bitsToShift →
    (s.bitsToShift ≠ 1 → exec (.rtcWrSerial a d) s =
      .next { s with bitsToShift := s.bitsToShift - 1, answer := some ⟨.proceed, 0⟩ })
    ∧ (s.bitsToShift = 1 → ∃ e, e.kind = .rtcCompleted ∧ e.addr = a ∧ exec (.rtcWrSerial a d) s = .next { s with
        bitsToShift := 0, activated := false, diag := s.diag ++ [e], answer := some ⟨.proceed, 0⟩ })

/-- R139 (a): from `magicSeqOffset = 0`, a run of 64 Normal-mode writes at any offsets activates Serial mode if and only
if every bit 0 is the expected one, and not before the 64th write. -/
def Obligations.MagicRunActivatesIffExact : Prop :=
  ∀ (s : State) (ws : List (Word × Byte)), s.halted = false → s.activated = false → s.magicSeqOffset = 0 →
    ws.length = 64 → let run := ws.map fun w => Instr.rtcWrNormal w.1 w.2
    (∀ k, k < 64 → ∃ t, execAll (run.take k) s = .next t ∧ t.activated = false)
    ∧ ∃ t, execAll run s = .next t
        ∧ (t.activated = true ↔
            ∀ (p : Nat) (h : p < ws.length), (ws[p]).2.getLsbD 0 = (0x5CA33AC55CA33AC5#64).getLsbD p)

/-- R139 (b): after activation exactly 64 accesses, reads and writes in any mixture, are serial cycles; then the device is
in Normal mode with no progress, NVRAM as it was, and one RtcCompleted entry. -/
def Obligations.SerialModeLastsSixtyFourAccesses : Prop :=
  ∀ (s : State) (ops : List (Word × Option Byte)), s.halted = false → s.activated = true → s.bitsToShift = 64 →
    s.magicSeqOffset = 0 → ops.length = 64 → let run := ops.map serialAccess
    (∀ k, k < 64 → ∃ t, execAll (run.take k) s = .next t ∧ t.activated = true ∧ t.bitsToShift = 64 - k)
    ∧ ∃ t, execAll run s = .next t ∧ t.activated = false ∧ t.bitsToShift = 0 ∧ t.magicSeqOffset = 0
        ∧ t.nvram = s.nvram ∧ ∃ e, t.diag = s.diag ++ [e] ∧ e.kind = .rtcCompleted

/-- R262: six Normal-mode writes with bits 1, 1, 0, 0, 0, 0 bring the detector to 0 from every starting value, without
activating. -/
def Obligations.SixWritesClearTheDetector : Prop :=
  ∀ (s : State) (ws : List (Word × Byte)), s.halted = false → s.activated = false → s.magicSeqOffset ≤ 63 →
    (ws.map fun w => w.2.getLsbD 0) = [true, true, false, false, false, false] →
    ∃ t, execAll (ws.map fun w => Instr.rtcWrNormal w.1 w.2) s = .next t ∧ t.magicSeqOffset = 0 ∧ t.activated = false
      ∧ t.diag = s.diag

/-- R138: nothing but a Normal-mode write and the Serial cycles changes the DS1244: no read, no wide access, no other
region and no push. -/
def Obligations.DetectorIsUndisturbed : Prop :=
  ∀ (i : Instr) (s t : State), (∀ a d, i ≠ .rtcWrNormal a d) → (∀ a d, i ≠ .rtcWrSerial a d) → (∀ a, i ≠ .rtcRdSerial a) →
    exec i s = .next t →
    t.magicSeqOffset = s.magicSeqOffset ∧ t.activated = s.activated ∧ t.bitsToShift = s.bitsToShift ∧ t.nvram = s.nvram

/-! ## The DUART -/

/-- R83: the eight bits of the status byte; R180 (decision D41 of the spec): the read changes nothing. -/
def Obligations.StatusByteBits : Prop :=
  ∀ (s : State) (a : Word) (ch : Channel), s.halted = false → let c := s.chan ch
    ∃ b : Byte, exec (.srRd a ch) s = .next { s with answer := some ⟨.proceed, b.setWidth 32⟩ }
      ∧ b.getLsbD 7 = c.breakRx ∧ b.getLsbD 6 = c.framingErr ∧ b.getLsbD 5 = c.parityErr ∧ b.getLsbD 4 = c.overrunErr
      ∧ b.getLsbD 3 = (decide (c.txFifo.length = 0) && c.txOn)
      ∧ b.getLsbD 2 = (decide (c.txFifo.length < 3) && c.txOn)
      ∧ b.getLsbD 1 = decide (c.rxFifo.length ≤ 3)
      ∧ b.getLsbD 0 = decide (0 < c.rxFifo.length)

/-- R180, the table of reachable values: under the DUART's invariant the byte is one of six; the read changes nothing
(decision D41 of the spec). -/
def Obligations.StatusByteReachableValues : Prop :=
  ∀ (s : State) (a : Word) (ch : Channel), s.halted = false → (s.chan ch).Inv →
    let n := (s.chan ch).rxFifo.length
    exec (.srRd a ch) s = .next { s with answer := some ⟨.proceed,
      if (s.chan ch).txOn then (if n = 0 then 0x0E else if n ≤ 3 then 0x0F else 0x0D)
      else (if n = 0 then 0x02 else if n ≤ 3 then 0x03 else 0x01)⟩ }

/-- R184 (decision D34 of the spec): a holding-register read removes and returns the head of the queue, or logs a
ProtocolViolation and returns 0; `proceed` in every mode. -/
def Obligations.HoldingReadPopsTheQueue : Prop :=
  ∀ (s : State) (a : Word) (ch : Channel), s.halted = false →
    (∀ b rest, (s.chan ch).rxFifo = b :: rest → exec (.rhrRd a ch) s =
      .next { s.setChan ch { s.chan ch with rxFifo := rest } with answer := some ⟨.proceed, b.setWidth 32⟩ })
    ∧ ((s.chan ch).rxFifo = [] → exec (.rhrRd a ch) s = .next { s with
        diag := s.diag ++ [⟨.protocolViolation, true, a, .w8, 0⟩], answer := some ⟨.proceed, 0⟩ })

/-- R182 (decisions D33, D34 of the spec), R197: with the transmit queue empty, as it always is, a transmit write appends
its byte to the channel's output whatever `txOn` is. -/
def Obligations.TransmitPassesThrough : Prop :=
  ∀ (s : State) (a : Word) (ch : Channel) (d : Byte), s.halted = false → (s.chan ch).txFifo = [] →
    exec (.thrWr a ch d) s =
      .next { s.setChan ch { s.chan ch with txOut := (s.chan ch).txOut ++ [d] } with answer := some ⟨.proceed, 0⟩ }

/-- R152 (decision D24 of the spec): a mode-register write sets the pointer and discards its byte. -/
def Obligations.ModeWriteSetsPointer : Prop :=
  ∀ (s : State) (a : Word) (ch : Channel) (d : Byte), s.halted = false →
    exec (.mrWr a ch d) s = .next { s.setChan ch { s.chan ch with modeRegPtr := 1 } with answer := some ⟨.proceed, 0⟩ }

/-- R153, R186, R187, R191 to R193 (decision D25 of the spec): the stubs accept and discard. -/
def Obligations.StubWritesChangeNothing : Prop :=
  ∀ (s : State) (a : Word) (ch : Channel) (d : Byte), s.halted = false →
    let u := { s with answer := some ⟨.proceed, 0⟩ }
    exec (.csrWr a ch d) s = .next u ∧ exec (.acrWr a d) s = .next u ∧ exec (.imrWr a d) s = .next u
    ∧ exec (.opcrWr a d) s = .next u ∧ exec (.oprSetWr a d) s = .next u ∧ exec (.oprClrWr a d) s = .next u

/-- R188, R189, R84 (decisions D19, D27 of the spec): each timer byte replaces its half and leaves the other. -/
def Obligations.TimerBytesCompose : Prop :=
  ∀ (s : State) (a : Word) (d : Byte), s.halted = false →
    (∃ v : BitVec 16, exec (.cturWr a d) s = .next { s with timerPeriod := v, answer := some ⟨.proceed, 0⟩ }
      ∧ v.extractLsb' 8 8 = d ∧ v.extractLsb' 0 8 = s.timerPeriod.extractLsb' 0 8)
    ∧ (∃ v : BitVec 16, exec (.ctlrWr a d) s = .next { s with timerPeriod := v, answer := some ⟨.proceed, 0⟩ }
      ∧ v.extractLsb' 0 8 = d ∧ v.extractLsb' 8 8 = s.timerPeriod.extractLsb' 8 8)

/-- R190: the IRQ-vector byte, at index 12. -/
def Obligations.IrqVectorWrite : Prop :=
  ∀ (s : State) (a : Word) (d : Byte), s.halted = false →
    exec (.ivrWr a d) s = .next { s with irqVector := d, answer := some ⟨.proceed, 0⟩ }
    ∧ (s.cfg.addrOf 12 a = true → ∀ m, decodeBus s.cfg m (.write8 a d) = .ivrWr a d)

/-! ## The command byte -/

/-- R154 (decision D22 of the spec): a command write is its transmitter row, then its receiver row, then its command
row. That a row is an operation of its own, answering (proceed, 0), is the model's (log 3). -/
def Obligations.CommandWriteIsItsThreeRows : Prop :=
  ∀ (s : State) (a : Word) (ch : Channel) (d : Byte), s.halted = false → let w : CmdWrite := ⟨a, ch, d⟩
    ∃ t1 t2 t3, exec w.txcRow s = .next t1 ∧ exec w.rxcRow t1 = .next t2 ∧ exec w.cmdRow t2 = .next t3
      ∧ exec (.crWr a ch d) s = .next t3

/-- R154, R159 (decision D22 of the spec): a reset-receiver command byte empties the queue and disables the receiver
whatever its enable nibble is, and the transmitter field still applies. -/
def Obligations.ResetReceiverBeatsEnable : Prop :=
  ∀ (s : State) (a : Word) (ch : Channel) (d : Byte), s.halted = false → d.extractLsb' 4 4 = 2#4 →
    ∃ t, exec (.crWr a ch d) s = .next t
      ∧ t = { s.setChan ch (t.chan ch) with freeIdx := t.freeIdx, answer := some ⟨.proceed, 0⟩ }
      ∧ t.chan ch = { s.chan ch with rxFifo := [], rxOn := false, txOn := (t.chan ch).txOn }
      ∧ (d.extractLsb' 2 2 = 0#2 → (t.chan ch).txOn = (s.chan ch).txOn)
      ∧ (d.extractLsb' 2 2 = 1#2 → (t.chan ch).txOn = true)
      ∧ (d.extractLsb' 2 2 = 2#2 → (t.chan ch).txOn = false)

/-- R158 to R162: the five reset commands, and the nibble of each. The code numbers rest on decision D20 of the spec and
what the resets spare on its D41; that a row is an operation of its own, answering (proceed, 0), is the model's (log 3). -/
def Obligations.ResetCommands : Prop :=
  ∀ (s : State) (c : CmdWrite), s.halted = false →
    let u (d : DuartChannel) : State := { s.setChan c.ch d with answer := some ⟨.proceed, 0⟩ }
    let d := s.chan c.ch
    exec (.cmdResetMrp c) s = .next (u { d with modeRegPtr := 0 })
    ∧ exec (.cmdResetRx c) s = .next (u { d with rxFifo := [], rxOn := false })
    ∧ exec (.cmdResetTx c) s = .next (u { d with txFifo := [], txOn := false })
    ∧ exec (.cmdResetErr c) s =
        .next (u { d with breakRx := false, parityErr := false, framingErr := false, overrunErr := false })
    ∧ exec (.cmdResetBrkirq c) s = .next (u { d with breakChangeIrq := false })
    ∧ (c.cmd = 1 → c.cmdRow = .cmdResetMrp c) ∧ (c.cmd = 2 → c.cmdRow = .cmdResetRx c)
    ∧ (c.cmd = 3 → c.cmdRow = .cmdResetTx c) ∧ (c.cmd = 4 → c.cmdRow = .cmdResetErr c)
    ∧ (c.cmd = 5 → c.cmdRow = .cmdResetBrkirq c)

/-- R165 to R168 (decision D20 of the spec): the four baud-extend commands. That a row is an operation of its own,
answering (proceed, 0), is the model's (log 3). -/
def Obligations.BaudExtendCommands : Prop :=
  ∀ (s : State) (c : CmdWrite), s.halted = false →
    let u (d : DuartChannel) : State := { s.setChan c.ch d with answer := some ⟨.proceed, 0⟩ }
    let d := s.chan c.ch
    exec (.cmdSetRxbrg c) s = .next (u { d with rxBrgExt := true })
    ∧ exec (.cmdClrRxbrg c) s = .next (u { d with rxBrgExt := false })
    ∧ exec (.cmdSetTxbrg c) s = .next (u { d with txBrgExt := true })
    ∧ exec (.cmdClrTxbrg c) s = .next (u { d with txBrgExt := false })

/-- R163, R164, R169 to R172 (decisions D23, D44 of the spec): an unimplemented command appends one informational entry
and changes nothing else. The entry is fixed in kind and address; its other fields (log 13), and that a row is
an operation of its own, answering (proceed, 0) (log 3), are the model's. -/
def Obligations.UnimplementedCommandsOnlyLog : Prop :=
  ∀ (s : State) (c : CmdWrite), s.halted = false → ∃ e : DiagEntry, e.kind = .duartUnimplementedCommand ∧ e.addr = c.addr
    ∧ let u := { s with diag := s.diag ++ [e], answer := some ⟨.proceed, 0⟩ }
      exec (.cmdStartBreak c) s = .next u ∧ exec (.cmdStopBreak c) s = .next u ∧ exec (.cmdStandby c) s = .next u
      ∧ exec (.cmdActive c) s = .next u ∧ exec (.cmdRsvdE c) s = .next u ∧ exec (.cmdRsvdF c) s = .next u

/-- R155 to R157 (decisions D21, D23 of the spec): patterns 00, 01 and 10 of both enable fields, and command 0.
That a row is an operation of its own, answering (proceed, 0), is the model's (log 3). -/
def Obligations.EnableFieldPatterns : Prop :=
  ∀ (s : State) (c : CmdWrite), s.halted = false →
    let u (d : DuartChannel) : State := { s.setChan c.ch d with answer := some ⟨.proceed, 0⟩ }
    let d := s.chan c.ch
    exec (.txcEnable c) s = .next (u { d with txOn := true })
    ∧ exec (.txcDisable c) s = .next (u { d with txOn := false })
    ∧ exec (.rxcEnable c) s = .next (u { d with rxOn := true })
    ∧ exec (.rxcDisable c) s = .next (u { d with rxOn := false })
    ∧ exec (.txcNochange c) s = .next { s with answer := some ⟨.proceed, 0⟩ }
    ∧ exec (.rxcNochange c) s = .next { s with answer := some ⟨.proceed, 0⟩ }
    ∧ exec (.cmdNop c) s = .next { s with answer := some ⟨.proceed, 0⟩ }

/-- R155, R156 (decision D21 of the spec, log 5): pattern 11 completes, leaves its flag some Boolean, and touches nothing
else but the model's counter of free values. That a row is an operation of its own, answering (proceed, 0), is the model's
(log 3). -/
def Obligations.ReservedPatternLeavesFlagFree : Prop :=
  ∀ (s : State) (c : CmdWrite), s.halted = false →
    (∃ (v : Bool) (n : Nat), exec (.txcReserved c) s = .next
      { s.setChan c.ch { s.chan c.ch with txOn := v } with freeIdx := n, answer := some ⟨.proceed, 0⟩ })
    ∧ ∃ (v : Bool) (n : Nat), exec (.rxcReserved c) s = .next
      { s.setChan c.ch { s.chan c.ch with rxOn := v } with freeIdx := n, answer := some ⟨.proceed, 0⟩ }

/-! ## The reader agents and the channels -/

/-- R196 (decisions D30, D32, D34 of the spec): a push is enabled in every state and appends its byte to the channel's
queue, touching nothing else. -/
def Obligations.PushAppendsOneByte : Prop :=
  ∀ (s : State) (ch : Channel) (b : Byte),
    exec (.rxPush ch b) s = .next (s.setChan ch { s.chan ch with rxFifo := (s.chan ch).rxFifo ++ [b] })

/-- R199: an operation on a channel neither changes the other channel nor depends on it. -/
def Obligations.ChannelsAreIndependent : Prop :=
  ∀ (i : Instr) (ch o : Channel) (s t : State), channelOf i = some ch → o ≠ ch → exec i s = .next t →
    t.chan o = s.chan o ∧ ∀ d, exec i (s.setChan o d) = .next (t.setChan o d)

/-- R56: over every run that does not reset the channel's receiver, the bytes queued before and the bytes pushed are, in
order, the bytes returned by the successful holding-register reads followed by the bytes still queued. -/
def Obligations.ReceiveQueueIsLossless : Prop :=
  ∀ (ch : Channel) (run : List Instr) (s t : State), (∀ i ∈ run, resetsReceiver ch i = false) → execAll run s = .next t →
    (s.chan ch).rxFifo ++ pushedBytes ch run = receivedBytes ch run s ++ (t.chan ch).rxFifo

/-- R47: a read of ROM, of RAM, of the DS1244 in Normal mode and of a status register is idempotent: repeated, it gives the
same state again, and it changes nothing but the answer. -/
def Obligations.IdempotentReads : Prop :=
  ∀ (i : Instr) (s t : State),
    ((∃ a w, i = .romRd a w) ∨ (∃ a w, i = .ramRd a w) ∨ (∃ a, i = .rtcRdNormal a) ∨ ∃ a ch, i = .srRd a ch) →
    exec i s = .next t → exec i t = .next t ∧ t = { s with answer := t.answer }
end

