-- ==== Sys2Proof/Laws/State.lean ====
section
/-! SUPPORT. One lemma per field per update of State, so that no proof unfolds an update. -/

namespace Sys2Proof.Machine

open Sys2Proof (Channel CmdWrite)

/-! ## reply -/

@[simp] theorem State.reply_cfg (s : State) (g : Signal) (v : Word) : (s.reply g v).cfg = s.cfg := rfl
@[simp] theorem State.reply_rom (s : State) (g : Signal) (v : Word) : (s.reply g v).rom = s.rom := rfl
@[simp] theorem State.reply_ram (s : State) (g : Signal) (v : Word) : (s.reply g v).ram = s.ram := rfl
@[simp] theorem State.reply_nvram (s : State) (g : Signal) (v : Word) : (s.reply g v).nvram = s.nvram := rfl
@[simp] theorem State.reply_magicSeqOffset (s : State) (g : Signal) (v : Word) : (s.reply g v).magicSeqOffset = s.magicSeqOffset := rfl
@[simp] theorem State.reply_activated (s : State) (g : Signal) (v : Word) : (s.reply g v).activated = s.activated := rfl
@[simp] theorem State.reply_bitsToShift (s : State) (g : Signal) (v : Word) : (s.reply g v).bitsToShift = s.bitsToShift := rfl
@[simp] theorem State.reply_chA (s : State) (g : Signal) (v : Word) : (s.reply g v).chA = s.chA := rfl
@[simp] theorem State.reply_chB (s : State) (g : Signal) (v : Word) : (s.reply g v).chB = s.chB := rfl
@[simp] theorem State.reply_timerPeriod (s : State) (g : Signal) (v : Word) : (s.reply g v).timerPeriod = s.timerPeriod := rfl
@[simp] theorem State.reply_irqVector (s : State) (g : Signal) (v : Word) : (s.reply g v).irqVector = s.irqVector := rfl
@[simp] theorem State.reply_diag (s : State) (g : Signal) (v : Word) : (s.reply g v).diag = s.diag := rfl
@[simp] theorem State.reply_halted (s : State) (g : Signal) (v : Word) : (s.reply g v).halted = s.halted := rfl
@[simp] theorem State.reply_inputs (s : State) (g : Signal) (v : Word) : (s.reply g v).inputs = s.inputs := rfl
@[simp] theorem State.reply_answer (s : State) (g : Signal) (v : Word) : (s.reply g v).answer = some ⟨g, v⟩ := rfl
@[simp] theorem State.reply_freeIdx (s : State) (g : Signal) (v : Word) : (s.reply g v).freeIdx = s.freeIdx := rfl

/-! ## log -/

@[simp] theorem State.log_cfg (s : State) (k : ErrorKind) (t : Access) : (s.log k t).cfg = s.cfg := rfl
@[simp] theorem State.log_rom (s : State) (k : ErrorKind) (t : Access) : (s.log k t).rom = s.rom := rfl
@[simp] theorem State.log_ram (s : State) (k : ErrorKind) (t : Access) : (s.log k t).ram = s.ram := rfl
@[simp] theorem State.log_nvram (s : State) (k : ErrorKind) (t : Access) : (s.log k t).nvram = s.nvram := rfl
@[simp] theorem State.log_magicSeqOffset (s : State) (k : ErrorKind) (t : Access) : (s.log k t).magicSeqOffset = s.magicSeqOffset := rfl
@[simp] theorem State.log_activated (s : State) (k : ErrorKind) (t : Access) : (s.log k t).activated = s.activated := rfl
@[simp] theorem State.log_bitsToShift (s : State) (k : ErrorKind) (t : Access) : (s.log k t).bitsToShift = s.bitsToShift := rfl
@[simp] theorem State.log_chA (s : State) (k : ErrorKind) (t : Access) : (s.log k t).chA = s.chA := rfl
@[simp] theorem State.log_chB (s : State) (k : ErrorKind) (t : Access) : (s.log k t).chB = s.chB := rfl
@[simp] theorem State.log_timerPeriod (s : State) (k : ErrorKind) (t : Access) : (s.log k t).timerPeriod = s.timerPeriod := rfl
@[simp] theorem State.log_irqVector (s : State) (k : ErrorKind) (t : Access) : (s.log k t).irqVector = s.irqVector := rfl
@[simp] theorem State.log_halted (s : State) (k : ErrorKind) (t : Access) : (s.log k t).halted = s.halted := rfl
@[simp] theorem State.log_inputs (s : State) (k : ErrorKind) (t : Access) : (s.log k t).inputs = s.inputs := rfl
@[simp] theorem State.log_answer (s : State) (k : ErrorKind) (t : Access) : (s.log k t).answer = s.answer := rfl
@[simp] theorem State.log_freeIdx (s : State) (k : ErrorKind) (t : Access) : (s.log k t).freeIdx = s.freeIdx := rfl
@[simp] theorem State.log_diag (s : State) (k : ErrorKind) (t : Access) :
    (s.log k t).diag = s.diag ++ [⟨k, t.isRead, t.addr, t.width, t.loggedData⟩] := rfl

/-! ## one byte of RAM or NVRAM -/

@[simp] theorem State.setRamByte_cfg (s : State) (i : Nat) (v : Byte) : (s.setRamByte i v).cfg = s.cfg := rfl
@[simp] theorem State.setRamByte_rom (s : State) (i : Nat) (v : Byte) : (s.setRamByte i v).rom = s.rom := rfl
@[simp] theorem State.setRamByte_nvram (s : State) (i : Nat) (v : Byte) : (s.setRamByte i v).nvram = s.nvram := rfl
@[simp] theorem State.setRamByte_magicSeqOffset (s : State) (i : Nat) (v : Byte) : (s.setRamByte i v).magicSeqOffset = s.magicSeqOffset := rfl
@[simp] theorem State.setRamByte_activated (s : State) (i : Nat) (v : Byte) : (s.setRamByte i v).activated = s.activated := rfl
@[simp] theorem State.setRamByte_bitsToShift (s : State) (i : Nat) (v : Byte) : (s.setRamByte i v).bitsToShift = s.bitsToShift := rfl
@[simp] theorem State.setRamByte_chA (s : State) (i : Nat) (v : Byte) : (s.setRamByte i v).chA = s.chA := rfl
@[simp] theorem State.setRamByte_chB (s : State) (i : Nat) (v : Byte) : (s.setRamByte i v).chB = s.chB := rfl
@[simp] theorem State.setRamByte_timerPeriod (s : State) (i : Nat) (v : Byte) : (s.setRamByte i v).timerPeriod = s.timerPeriod := rfl
@[simp] theorem State.setRamByte_irqVector (s : State) (i : Nat) (v : Byte) : (s.setRamByte i v).irqVector = s.irqVector := rfl
@[simp] theorem State.setRamByte_diag (s : State) (i : Nat) (v : Byte) : (s.setRamByte i v).diag = s.diag := rfl
@[simp] theorem State.setRamByte_halted (s : State) (i : Nat) (v : Byte) : (s.setRamByte i v).halted = s.halted := rfl
@[simp] theorem State.setRamByte_inputs (s : State) (i : Nat) (v : Byte) : (s.setRamByte i v).inputs = s.inputs := rfl
@[simp] theorem State.setRamByte_answer (s : State) (i : Nat) (v : Byte) : (s.setRamByte i v).answer = s.answer := rfl
@[simp] theorem State.setRamByte_freeIdx (s : State) (i : Nat) (v : Byte) : (s.setRamByte i v).freeIdx = s.freeIdx := rfl
@[simp] theorem State.setRamByte_ram (s : State) (i : Nat) (v : Byte) : (s.setRamByte i v).ram = s.ram.store none i v := rfl
@[simp] theorem State.setNvramByte_cfg (s : State) (i : Nat) (v : Byte) : (s.setNvramByte i v).cfg = s.cfg := rfl
@[simp] theorem State.setNvramByte_rom (s : State) (i : Nat) (v : Byte) : (s.setNvramByte i v).rom = s.rom := rfl
@[simp] theorem State.setNvramByte_ram (s : State) (i : Nat) (v : Byte) : (s.setNvramByte i v).ram = s.ram := rfl
@[simp] theorem State.setNvramByte_magicSeqOffset (s : State) (i : Nat) (v : Byte) : (s.setNvramByte i v).magicSeqOffset = s.magicSeqOffset := rfl
@[simp] theorem State.setNvramByte_activated (s : State) (i : Nat) (v : Byte) : (s.setNvramByte i v).activated = s.activated := rfl
@[simp] theorem State.setNvramByte_bitsToShift (s : State) (i : Nat) (v : Byte) : (s.setNvramByte i v).bitsToShift = s.bitsToShift := rfl
@[simp] theorem State.setNvramByte_chA (s : State) (i : Nat) (v : Byte) : (s.setNvramByte i v).chA = s.chA := rfl
@[simp] theorem State.setNvramByte_chB (s : State) (i : Nat) (v : Byte) : (s.setNvramByte i v).chB = s.chB := rfl
@[simp] theorem State.setNvramByte_timerPeriod (s : State) (i : Nat) (v : Byte) : (s.setNvramByte i v).timerPeriod = s.timerPeriod := rfl
@[simp] theorem State.setNvramByte_irqVector (s : State) (i : Nat) (v : Byte) : (s.setNvramByte i v).irqVector = s.irqVector := rfl
@[simp] theorem State.setNvramByte_diag (s : State) (i : Nat) (v : Byte) : (s.setNvramByte i v).diag = s.diag := rfl
@[simp] theorem State.setNvramByte_halted (s : State) (i : Nat) (v : Byte) : (s.setNvramByte i v).halted = s.halted := rfl
@[simp] theorem State.setNvramByte_inputs (s : State) (i : Nat) (v : Byte) : (s.setNvramByte i v).inputs = s.inputs := rfl
@[simp] theorem State.setNvramByte_answer (s : State) (i : Nat) (v : Byte) : (s.setNvramByte i v).answer = s.answer := rfl
@[simp] theorem State.setNvramByte_freeIdx (s : State) (i : Nat) (v : Byte) : (s.setNvramByte i v).freeIdx = s.freeIdx := rfl
@[simp] theorem State.setNvramByte_nvram (s : State) (i : Nat) (v : Byte) :
    (s.setNvramByte i v).nvram = s.nvram.store (some 0) i v := rfl

/-! ## several bytes of RAM -/

/-- Storing bytes changes RAM and nothing else. -/
theorem State.setRamBytes_eq (bs : List Byte) : ∀ (s : State) (off : Nat),
    s.setRamBytes off bs = { s with ram := (s.setRamBytes off bs).ram } := by
  induction bs with
  | nil => intro s off; rfl
  | cons b rest ih => intro s off; rw [State.setRamBytes, ih]; rfl

@[simp] theorem State.setRamBytes_cfg (s : State) (off : Nat) (bs : List Byte) : (s.setRamBytes off bs).cfg = s.cfg := by rw [State.setRamBytes_eq]
@[simp] theorem State.setRamBytes_rom (s : State) (off : Nat) (bs : List Byte) : (s.setRamBytes off bs).rom = s.rom := by rw [State.setRamBytes_eq]
@[simp] theorem State.setRamBytes_nvram (s : State) (off : Nat) (bs : List Byte) : (s.setRamBytes off bs).nvram = s.nvram := by rw [State.setRamBytes_eq]
@[simp] theorem State.setRamBytes_magicSeqOffset (s : State) (off : Nat) (bs : List Byte) : (s.setRamBytes off bs).magicSeqOffset = s.magicSeqOffset := by rw [State.setRamBytes_eq]
@[simp] theorem State.setRamBytes_activated (s : State) (off : Nat) (bs : List Byte) : (s.setRamBytes off bs).activated = s.activated := by rw [State.setRamBytes_eq]
@[simp] theorem State.setRamBytes_bitsToShift (s : State) (off : Nat) (bs : List Byte) : (s.setRamBytes off bs).bitsToShift = s.bitsToShift := by rw [State.setRamBytes_eq]
@[simp] theorem State.setRamBytes_chA (s : State) (off : Nat) (bs : List Byte) : (s.setRamBytes off bs).chA = s.chA := by rw [State.setRamBytes_eq]
@[simp] theorem State.setRamBytes_chB (s : State) (off : Nat) (bs : List Byte) : (s.setRamBytes off bs).chB = s.chB := by rw [State.setRamBytes_eq]
@[simp] theorem State.setRamBytes_timerPeriod (s : State) (off : Nat) (bs : List Byte) : (s.setRamBytes off bs).timerPeriod = s.timerPeriod := by rw [State.setRamBytes_eq]
@[simp] theorem State.setRamBytes_irqVector (s : State) (off : Nat) (bs : List Byte) : (s.setRamBytes off bs).irqVector = s.irqVector := by rw [State.setRamBytes_eq]
@[simp] theorem State.setRamBytes_diag (s : State) (off : Nat) (bs : List Byte) : (s.setRamBytes off bs).diag = s.diag := by rw [State.setRamBytes_eq]
@[simp] theorem State.setRamBytes_halted (s : State) (off : Nat) (bs : List Byte) : (s.setRamBytes off bs).halted = s.halted := by rw [State.setRamBytes_eq]
@[simp] theorem State.setRamBytes_inputs (s : State) (off : Nat) (bs : List Byte) : (s.setRamBytes off bs).inputs = s.inputs := by rw [State.setRamBytes_eq]
@[simp] theorem State.setRamBytes_answer (s : State) (off : Nat) (bs : List Byte) : (s.setRamBytes off bs).answer = s.answer := by rw [State.setRamBytes_eq]
@[simp] theorem State.setRamBytes_freeIdx (s : State) (off : Nat) (bs : List Byte) : (s.setRamBytes off bs).freeIdx = s.freeIdx := by rw [State.setRamBytes_eq]

/-! ## channels -/

@[simp] theorem State.setChan_cfg (s : State) (ch : Channel) (d : DuartChannel) : (s.setChan ch d).cfg = s.cfg := by cases ch <;> rfl
@[simp] theorem State.setChan_rom (s : State) (ch : Channel) (d : DuartChannel) : (s.setChan ch d).rom = s.rom := by cases ch <;> rfl
@[simp] theorem State.setChan_ram (s : State) (ch : Channel) (d : DuartChannel) : (s.setChan ch d).ram = s.ram := by cases ch <;> rfl
@[simp] theorem State.setChan_nvram (s : State) (ch : Channel) (d : DuartChannel) : (s.setChan ch d).nvram = s.nvram := by cases ch <;> rfl
@[simp] theorem State.setChan_magicSeqOffset (s : State) (ch : Channel) (d : DuartChannel) : (s.setChan ch d).magicSeqOffset = s.magicSeqOffset := by cases ch <;> rfl
@[simp] theorem State.setChan_activated (s : State) (ch : Channel) (d : DuartChannel) : (s.setChan ch d).activated = s.activated := by cases ch <;> rfl
@[simp] theorem State.setChan_bitsToShift (s : State) (ch : Channel) (d : DuartChannel) : (s.setChan ch d).bitsToShift = s.bitsToShift := by cases ch <;> rfl
@[simp] theorem State.setChan_timerPeriod (s : State) (ch : Channel) (d : DuartChannel) : (s.setChan ch d).timerPeriod = s.timerPeriod := by cases ch <;> rfl
@[simp] theorem State.setChan_irqVector (s : State) (ch : Channel) (d : DuartChannel) : (s.setChan ch d).irqVector = s.irqVector := by cases ch <;> rfl
@[simp] theorem State.setChan_diag (s : State) (ch : Channel) (d : DuartChannel) : (s.setChan ch d).diag = s.diag := by cases ch <;> rfl
@[simp] theorem State.setChan_halted (s : State) (ch : Channel) (d : DuartChannel) : (s.setChan ch d).halted = s.halted := by cases ch <;> rfl
@[simp] theorem State.setChan_inputs (s : State) (ch : Channel) (d : DuartChannel) : (s.setChan ch d).inputs = s.inputs := by cases ch <;> rfl
@[simp] theorem State.setChan_answer (s : State) (ch : Channel) (d : DuartChannel) : (s.setChan ch d).answer = s.answer := by cases ch <;> rfl
@[simp] theorem State.setChan_freeIdx (s : State) (ch : Channel) (d : DuartChannel) : (s.setChan ch d).freeIdx = s.freeIdx := by cases ch <;> rfl
@[simp] theorem State.onChan_cfg (s : State) (ch : Channel) (g : DuartChannel → DuartChannel) : (s.onChan ch g).cfg = s.cfg := by cases ch <;> rfl
@[simp] theorem State.onChan_rom (s : State) (ch : Channel) (g : DuartChannel → DuartChannel) : (s.onChan ch g).rom = s.rom := by cases ch <;> rfl
@[simp] theorem State.onChan_ram (s : State) (ch : Channel) (g : DuartChannel → DuartChannel) : (s.onChan ch g).ram = s.ram := by cases ch <;> rfl
@[simp] theorem State.onChan_nvram (s : State) (ch : Channel) (g : DuartChannel → DuartChannel) : (s.onChan ch g).nvram = s.nvram := by cases ch <;> rfl
@[simp] theorem State.onChan_magicSeqOffset (s : State) (ch : Channel) (g : DuartChannel → DuartChannel) : (s.onChan ch g).magicSeqOffset = s.magicSeqOffset := by cases ch <;> rfl
@[simp] theorem State.onChan_activated (s : State) (ch : Channel) (g : DuartChannel → DuartChannel) : (s.onChan ch g).activated = s.activated := by cases ch <;> rfl
@[simp] theorem State.onChan_bitsToShift (s : State) (ch : Channel) (g : DuartChannel → DuartChannel) : (s.onChan ch g).bitsToShift = s.bitsToShift := by cases ch <;> rfl
@[simp] theorem State.onChan_timerPeriod (s : State) (ch : Channel) (g : DuartChannel → DuartChannel) : (s.onChan ch g).timerPeriod = s.timerPeriod := by cases ch <;> rfl
@[simp] theorem State.onChan_irqVector (s : State) (ch : Channel) (g : DuartChannel → DuartChannel) : (s.onChan ch g).irqVector = s.irqVector := by cases ch <;> rfl
@[simp] theorem State.onChan_diag (s : State) (ch : Channel) (g : DuartChannel → DuartChannel) : (s.onChan ch g).diag = s.diag := by cases ch <;> rfl
@[simp] theorem State.onChan_halted (s : State) (ch : Channel) (g : DuartChannel → DuartChannel) : (s.onChan ch g).halted = s.halted := by cases ch <;> rfl
@[simp] theorem State.onChan_inputs (s : State) (ch : Channel) (g : DuartChannel → DuartChannel) : (s.onChan ch g).inputs = s.inputs := by cases ch <;> rfl
@[simp] theorem State.onChan_answer (s : State) (ch : Channel) (g : DuartChannel → DuartChannel) : (s.onChan ch g).answer = s.answer := by cases ch <;> rfl
@[simp] theorem State.onChan_freeIdx (s : State) (ch : Channel) (g : DuartChannel → DuartChannel) : (s.onChan ch g).freeIdx = s.freeIdx := by cases ch <;> rfl

@[simp] theorem State.chan_setChan (s : State) (ch : Channel) (d : DuartChannel) : (s.setChan ch d).chan ch = d := by
  cases ch <;> rfl

theorem State.chan_setChan_ne {s : State} {ch o : Channel} (h : o ≠ ch) (d : DuartChannel) :
    (s.setChan ch d).chan o = s.chan o := by
  cases ch <;> cases o <;> first | rfl | exact absurd rfl h

@[simp] theorem State.chan_onChan (s : State) (ch : Channel) (g : DuartChannel → DuartChannel) :
    (s.onChan ch g).chan ch = g (s.chan ch) := State.chan_setChan ..

theorem State.chan_onChan_ne {s : State} {ch o : Channel} (h : o ≠ ch) (g : DuartChannel → DuartChannel) :
    (s.onChan ch g).chan o = s.chan o := State.chan_setChan_ne h _

@[simp] theorem State.onChan_A (s : State) (g : DuartChannel → DuartChannel) : s.onChan .A g = { s with chA := g s.chA } := rfl

@[simp] theorem State.onChan_B (s : State) (g : DuartChannel → DuartChannel) : s.onChan .B g = { s with chB := g s.chB } := rfl

@[simp] theorem State.chan_A (s : State) : s.chan .A = s.chA := rfl

@[simp] theorem State.chan_B (s : State) : s.chan .B = s.chB := rfl

@[simp] theorem State.chan_reply (s : State) (g : Signal) (v : Word) (ch : Channel) : (s.reply g v).chan ch = s.chan ch := by
  cases ch <;> rfl

@[simp] theorem State.chan_log (s : State) (k : ErrorKind) (t : Access) (ch : Channel) : (s.log k t).chan ch = s.chan ch := by
  cases ch <;> rfl

/-- Both channels in one equation: a channel update seen by either accessor. -/
theorem State.chan_onChan_eq (s : State) (ch o : Channel) (g : DuartChannel → DuartChannel) :
    (s.onChan ch g).chan o = if o = ch then g (s.chan o) else s.chan o := by
  cases ch <;> cases o <;> rfl

end Sys2Proof.Machine
end

