-- ==== Sys2Proof/Laws/Command.lean ====
section
/-! SUPPORT. The parts of a command byte: for each, all it can do. -/

namespace Sys2Proof.Machine

/-- The transmitter field: one channel's `txOn`, and the counter of free values. -/
theorem State.applyTxc_eq (s : State) (c : CmdWrite) : ∃ v n, s.applyTxc c =
    { s.onChan c.ch (fun d => { d with txOn := v }) with freeIdx := n } := by
  obtain ⟨a, ch, d⟩ := c
  unfold State.applyTxc
  split
  · exact ⟨(s.chan ch).txOn, s.freeIdx, by cases ch <;> rfl⟩
  · exact ⟨true, s.freeIdx, by cases ch <;> rfl⟩
  · exact ⟨false, s.freeIdx, by cases ch <;> rfl⟩
  · exact ⟨Config.freeEnable s.freeIdx, s.freeIdx + 1, by cases ch <;> rfl⟩

/-- The receiver field: one channel's `rxOn`, and the counter of free values. -/
theorem State.applyRxc_eq (s : State) (c : CmdWrite) : ∃ v n, s.applyRxc c =
    { s.onChan c.ch (fun d => { d with rxOn := v }) with freeIdx := n } := by
  obtain ⟨a, ch, d⟩ := c
  unfold State.applyRxc
  split
  · exact ⟨(s.chan ch).rxOn, s.freeIdx, by cases ch <;> rfl⟩
  · exact ⟨true, s.freeIdx, by cases ch <;> rfl⟩
  · exact ⟨false, s.freeIdx, by cases ch <;> rfl⟩
  · exact ⟨Config.freeEnable s.freeIdx, s.freeIdx + 1, by cases ch <;> rfl⟩

/-- The command nibble: one channel's elements, and at most one entry. -/
theorem State.applyCmd_eq (s : State) (c : CmdWrite) : ∃ g es,
    s.applyCmd c = { s.onChan c.ch g with diag := s.diag ++ es }
    ∧ (es = [] ∨ es = [⟨.duartUnimplementedCommand, false, c.addr, .w8, c.access.loggedData⟩]) := by
  obtain ⟨a, ch, d⟩ := c
  have hid : ∀ u : State, u = { u.onChan ch (fun e => e) with diag := u.diag ++ [] } := by
    intro u; rw [List.append_nil]; cases ch <;> rfl
  have hch : ∀ g : DuartChannel → DuartChannel, s.onChan ch g = { s.onChan ch g with diag := s.diag ++ [] } := by
    intro g; rw [List.append_nil]; cases ch <;> rfl
  unfold State.applyCmd
  split
  · exact ⟨_, [], hid s, .inl rfl⟩
  · exact ⟨_, [], hch _, .inl rfl⟩
  · exact ⟨_, [], hch _, .inl rfl⟩
  · exact ⟨_, [], hch _, .inl rfl⟩
  · exact ⟨_, [], hch _, .inl rfl⟩
  · exact ⟨_, [], hch _, .inl rfl⟩
  · exact ⟨_, [], hch _, .inl rfl⟩
  · exact ⟨_, [], hch _, .inl rfl⟩
  · exact ⟨_, [], hch _, .inl rfl⟩
  · exact ⟨_, [], hch _, .inl rfl⟩
  · refine ⟨fun e => e, [_], ?_, .inr rfl⟩
    cases ch <;> rfl

/-- An answer given before the receiver field is applied is given after it as well. -/
theorem State.applyRxc_reply (s : State) (c : CmdWrite) (g : Signal) (v : Word) :
    (s.reply g v).applyRxc c = (s.applyRxc c).reply g v := by
  obtain ⟨a, ch, d⟩ := c
  unfold State.applyRxc
  cases ch <;> split <;> rfl

/-- An answer given before the command nibble is applied is given after it as well. -/
theorem State.applyCmd_reply (s : State) (c : CmdWrite) (g : Signal) (v : Word) :
    (s.reply g v).applyCmd c = (s.applyCmd c).reply g v := by
  obtain ⟨a, ch, d⟩ := c
  unfold State.applyCmd
  cases ch <;> split <;> rfl

end Sys2Proof.Machine
end

