-- ==== Sys2Proof/Laws/Decode.lean ====
section
/-! SUPPORT. What the decoder reads back from the encoder's frames, field by field, and frames as bytes. -/

namespace Sys2Proof

/-! ## Regions -/

/-- An address resolves only to a region it lies in. -/
theorem Config.region_some {c : Config} {a : Nat} {r : Region} (h : c.region a = some r) : c.base r ≤ a ∧ a < c.top r := by
  have hin : c.inRegion r a = true := by
    unfold Config.region at h
    split at h
    · cases h; assumption
    · split at h
      · cases h; assumption
      · exact List.find?_some (p := fun r => c.inRegion r a) h
  simpa [Config.inRegion] using hin

theorem Config.inRegion_iff {c : Config} {r : Region} {a : Nat} :
    c.inRegion r a = true ↔ c.base r ≤ a ∧ a < c.base r + c.size r := by
  simp only [Config.inRegion, Bool.and_eq_true, decide_eq_true_eq]
  exact Iff.rfl

/-- Disjointness as it reads: no address lies in both regions. -/
theorem Config.disjoint_iff {c : Config} {r q : Region} : c.disjoint r q = true ↔
    ∀ x, ¬ (c.base r ≤ x ∧ x < c.base r + c.size r ∧ c.base q ≤ x ∧ x < c.base q + c.size q) := by
  simp only [Config.disjoint, Bool.or_eq_true, decide_eq_true_eq]
  unfold Config.top
  constructor
  · rintro (((h | h) | h) | h) x ⟨h1, h2, h3, h4⟩ <;> omega
  · intro h
    by_contra hc
    rcases Nat.le_total (c.base r) (c.base q) with hl | hl
    · exact h (c.base q) ⟨hl, by omega, le_refl _, by omega⟩
    · exact h (c.base r) ⟨le_refl _, by omega, hl, by omega⟩

theorem Config.addrIn_iff {c : Config} {r : Region} {a : Word} :
    c.addrIn r a = true ↔ c.mask a = a ∧ c.region a.toNat = some r := by
  simp [Config.addrIn]

theorem Config.fits_iff {c : Config} {r : Region} {a : Word} {w : Width} :
    c.fits r a w = true ↔ c.addrIn r a = true ∧ c.straddles r a w = false := by
  simp [Config.fits]

/-- An access that fits in a region moves bytes of that region only (40_bus_router.md R101 to R104). -/
theorem Config.offset_of_fits {c : Config} {r : Region} {a : Word} {w : Width} (h : c.fits r a w = true) :
    c.offset r a + w.bytes ≤ c.size r := by
  obtain ⟨h1, h2⟩ := Config.fits_iff.1 h
  obtain ⟨hb, -⟩ := Config.region_some (Config.addrIn_iff.1 h1).2
  have h3 : ¬ c.top r < a.toNat + w.bytes := by simpa [Config.straddles] using h2
  unfold Config.top at h3
  unfold Config.offset
  omega

/-! ## The fields of a transaction's frame -/

@[simp] theorem Access.frame_format (k : BitVec 4) (t : Access) : (t.frame k).format = k := by
  unfold Access.frame Frame.format
  apply BitVec.eq_of_getLsbD_eq
  intro i hi
  simp only [BitVec.getLsbD_extractLsb', BitVec.getLsbD_append, hi]
  interval_cases i <;> simp

@[simp] theorem Access.frame_width (k : BitVec 4) (t : Access) : (t.frame k).width = some t.width := by
  have h : (t.frame k).key.extractLsb' 32 3 = t.width.field := by
    unfold Access.frame
    apply BitVec.eq_of_getLsbD_eq
    intro i hi
    simp only [BitVec.getLsbD_extractLsb', BitVec.getLsbD_append, hi]
    interval_cases i <;> simp
  unfold Frame.width
  rw [h]
  cases t.width <;> rfl

@[simp] theorem Access.frame_isRead (k : BitVec 4) (t : Access) : (t.frame k).isRead = t.isRead := by
  have h : (t.frame k).isRead = t.op.field.getLsbD 0 := by
    simp only [Access.frame, Frame.isRead, BitVec.getLsbD_append]
    rfl
  rw [h, Access.isRead]
  cases t.op <;> simp [BusOp.field]

@[simp] theorem Access.frame_address (k : BitVec 4) (t : Access) : (t.frame k).address = t.addr := by
  unfold Access.frame Frame.address
  apply BitVec.eq_of_getLsbD_eq
  intro i hi
  simp only [BitVec.getLsbD_setWidth, BitVec.getLsbD_append, hi]
  simp

@[simp] theorem Access.frame_data (k : BitVec 4) (t : Access) : (t.frame k).data = t.op.dataWord := rfl

/-- The decoder reads back the transaction of its frame, when its address is a masked one. -/
theorem Access.frame_access {c : Config} {t : Access} (h : c.mask t.addr = t.addr) (k : BitVec 4) :
    (t.frame k).access c = some t := by
  obtain ⟨a, w, op⟩ := t
  cases op <;> simp_all [Frame.access, Access.isRead, BusOp.dataWord]

theorem Access.frame_require {c : Config} {t : Access} (h : c.mask t.addr = t.addr) (k : BitVec 4)
    (g : Access → Except DecodeError Instr) : (t.frame k).require c g = g t := by
  rw [Frame.require, Access.frame_access h]

/-- Every transaction of a frame has a masked address. -/
theorem Frame.access_masked {c : Config} {f : Frame} {t : Access} (h : f.access c = some t) : c.mask t.addr = t.addr := by
  unfold Frame.access at h
  obtain ⟨w, -, rfl⟩ := Option.map_eq_some_iff.1 h
  simp [Config.mask, BitVec.and_assoc]

/-! ## The fields of a push's frame -/

@[simp] theorem lowByte_zext32 (d : Byte) : lowByte (zext32 d) = d := by
  unfold lowByte zext32
  apply BitVec.eq_of_getLsbD_eq
  intro i hi
  simp only [BitVec.getLsbD_setWidth, hi]
  simp
  omega

theorem pushFrame_format (ch : Channel) (b : Byte) : (pushFrame ch b).format = 4 := by
  unfold pushFrame Frame.format
  apply BitVec.eq_of_getLsbD_eq
  intro i hi
  simp only [BitVec.getLsbD_extractLsb', BitVec.getLsbD_append, hi]
  interval_cases i <;> simp

/-- The decoder reads back a push. -/
theorem decodeAgent_pushFrame (ch : Channel) (b : Byte) : decodeAgent (pushFrame ch b) = .ok (.rxPush ch b) := by
  have h1 : (pushFrame ch b).key.extractLsb' 1 35 = 0 := by
    cases ch <;> simp only [pushFrame] <;> decide
  have h2 : (pushFrame ch b).data.extractLsb' 8 24 = 0 := by
    unfold pushFrame zext32
    apply BitVec.eq_of_getLsbD_eq
    intro i hi
    simp
  have h0 : (pushFrame ch b).key.getLsbD 0 = decide (ch = .B) := by
    cases ch <;> simp only [pushFrame] <;> decide
  have h3 : (if (pushFrame ch b).key.getLsbD 0 then Channel.B else .A) = ch := by
    rw [h0]; cases ch <;> rfl
  have h4 : lowByte (pushFrame ch b).data = b := lowByte_zext32 b
  rw [decodeAgent, if_pos ⟨h1, h2⟩, h3, h4]

/-! ## Bytes and command bytes -/

/-- The three fields are the whole command byte. -/
theorem CmdWrite.fields (w : CmdWrite) : w.cmd ++ w.txc ++ w.rxc = w.data := by
  unfold CmdWrite.cmd CmdWrite.txc CmdWrite.rxc
  apply BitVec.eq_of_getLsbD_eq
  intro i hi
  simp only [BitVec.getLsbD_append, BitVec.getLsbD_extractLsb']
  interval_cases i <;> simp

/-! ## Dispatch of one register index -/

theorem Channel.index_val (ch : Channel) (k : Fin 8) : (ch.index k).val = k.val + (match ch with | .A => 0 | .B => 8) := by
  cases ch <;> rfl

theorem addrOf_region {c : Config} {k : Fin 16} {a : Word} (h : c.addrOf k a = true) :
    c.mask a = a ∧ c.region a.toNat = some .duart ∧ c.duartReg (c.offset .duart a) = some k := by
  simp only [Config.addrOf, Bool.and_eq_true, decide_eq_true_eq] at h
  obtain ⟨h1, h2⟩ := Config.addrIn_iff.1 h.1
  exact ⟨h1, h2, h.2⟩

/-- An 8-bit read of register index `k`. -/
theorem decodeBus_read8 {c : Config} {k : Fin 16} {a : Word} (h : c.addrOf k a = true) (m : Bool) :
    decodeBus c m (.read8 a) = decodeDuartRead a k := by
  obtain ⟨-, h2, h3⟩ := addrOf_region h
  simp [decodeBus, Access.read8, h2, decodeDuart, h3]

/-- An 8-bit write of register index `k`. -/
theorem decodeBus_write8 {c : Config} {k : Fin 16} {a : Word} (h : c.addrOf k a = true) (m : Bool) (d : Byte) :
    decodeBus c m (.write8 a d) = decodeDuartWrite a d k := by
  obtain ⟨-, h2, h3⟩ := addrOf_region h
  simp [decodeBus, Access.write8, h2, decodeDuart, h3]

/-! ## Frames as bytes -/

theorem leBytes_length (n v : Nat) : (leBytes n v).length = n := by
  induction n generalizing v with
  | zero => rfl
  | succ n ih => simp [leBytes, ih]

theorem ofLeBytes_leBytes (n v : Nat) : ofLeBytes (leBytes n v) = v % 256 ^ n := by
  induction n generalizing v with
  | zero => simp [leBytes, ofLeBytes, Nat.mod_one]
  | succ n ih =>
    have h : v % 256 ^ (n + 1) = v % 256 + 256 * (v / 256 % 256 ^ n) := by
      rw [pow_succ', Nat.mod_mul]
    rw [leBytes, ofLeBytes, ih, BitVec.toNat_ofNat, h]

theorem Frame.toBytes_length (f : Frame) : f.toBytes.length = 9 := by simp [Frame.toBytes, leBytes_length]

/-- A frame's bytes give the frame back, and leave the rest of the stream. -/
theorem Frame.ofBytes_toBytes (f : Frame) (rest : List Byte) : Frame.ofBytes (f.toBytes ++ rest) = some (f, rest) := by
  have hk : (leBytes 5 f.key.toNat).length = 5 := leBytes_length ..
  have hd : (leBytes 4 f.data.toNat).length = 4 := leBytes_length ..
  have h9 : ¬ (f.toBytes ++ rest).length < 9 := by simp [Frame.toBytes_length]
  have e1 : (f.toBytes ++ rest).take 5 = leBytes 5 f.key.toNat := by
    rw [Frame.toBytes, List.append_assoc, List.take_left' hk]
  have e2 : ((f.toBytes ++ rest).drop 5).take 4 = leBytes 4 f.data.toNat := by
    rw [Frame.toBytes, List.append_assoc, List.drop_left' hk, List.take_left' hd]
  have e3 : (f.toBytes ++ rest).drop 9 = rest := List.drop_left' (Frame.toBytes_length f)
  have k1 : BitVec.ofNat 40 (f.key.toNat % 256 ^ 5) = f.key := by
    apply BitVec.eq_of_toNat_eq; have := f.key.isLt; simp only [BitVec.toNat_ofNat]; omega
  have k2 : BitVec.ofNat 32 (f.data.toNat % 256 ^ 4) = f.data := by
    apply BitVec.eq_of_toNat_eq; have := f.data.isLt; simp only [BitVec.toNat_ofNat]; omega
  rw [Frame.ofBytes, if_neg h9, e1, e2, e3, ofLeBytes_leBytes, ofLeBytes_leBytes, k1, k2]

end Sys2Proof
end

