-- ==== Sys2Proof/Laws/Memory.lean ====
section
/-! SUPPORT. Read after write, and the canonical form, for one byte array. -/

namespace Sys2Proof

/-! ## Read after write -/

theorem Memory.find_insert (m : Memory) (a b : Nat) (v : Byte) :
    (m.insert a v).find b = if a = b then some v else m.find b := by
  induction m with
  | nil => simp [Memory.insert, Memory.find]
  | cons c rest ih =>
    obtain ⟨k, w⟩ := c
    by_cases hlt : a < k
    · simp [Memory.insert, hlt, Memory.find]
    · by_cases hk : a = k
      · subst hk
        by_cases hb : a = b <;> simp [Memory.insert, Memory.find, hb]
      · simp only [Memory.insert, hlt, hk, if_false, Memory.find, ih]
        by_cases hb : a = b
        · subst hb; simp [Ne.symm hk]
        · simp [hb]

theorem Memory.find_erase (m : Memory) (a b : Nat) :
    (m.erase a).find b = if a = b then none else m.find b := by
  induction m with
  | nil => simp [Memory.erase, Memory.find]
  | cons c rest ih =>
    obtain ⟨k, w⟩ := c
    by_cases hk : k = a
    · subst hk
      have : Memory.erase ((k, w) :: rest) k = Memory.erase rest k := by simp [Memory.erase]
      rw [this, ih]
      by_cases hb : k = b <;> simp [Memory.find, hb]
    · have : Memory.erase ((k, w) :: rest) a = (k, w) :: Memory.erase rest a := by simp [Memory.erase, hk]
      rw [this]
      simp only [Memory.find, ih]
      by_cases hb : a = b
      · subst hb; simp [hk]
      · simp [hb]

/-- What a store leaves listed: at the offset stored to, the byte unless it is the default; elsewhere, as before. -/
theorem Memory.find_store (dflt : Option Byte) (m : Memory) (a b : Nat) (v : Byte) :
    (m.store dflt a v).find b = if a = b then (if dflt = some v then none else some v) else m.find b := by
  by_cases h : dflt = some v
  · simp [Memory.store, h, Memory.find_erase]
  · simp [Memory.store, h, Memory.find_insert]

/-- Read after write, an unlisted offset reading as `dflt`. -/
theorem Memory.find_store_getD (m : Memory) (d : Byte) (a b : Nat) (v : Byte) :
    ((m.store (some d) a v).find b).getD d = if a = b then v else (m.find b).getD d := by
  rw [Memory.find_store]
  by_cases hb : a = b
  · by_cases hv : d = v <;> simp [hb, hv]
  · simp [hb]

/-! ## Every offset of an updated array is an old one or the one stored to -/

theorem Memory.mem_insert {m : Memory} {a : Nat} {v : Byte} {c : Host.Cell} (h : c ∈ m.insert a v) :
    c = (a, v) ∨ c ∈ m := by
  induction m with
  | nil => simpa [Memory.insert] using h
  | cons d rest ih =>
    obtain ⟨k, w⟩ := d
    simp only [Memory.insert] at h
    split at h
    · simpa using h
    · split at h
      · rcases List.mem_cons.1 h with h | h
        · exact .inl h
        · exact .inr (List.mem_cons_of_mem _ h)
      · rcases List.mem_cons.1 h with h | h
        · exact .inr (by simp [h])
        · exact (ih h).imp_right (List.mem_cons_of_mem _)

theorem Memory.mem_erase {m : Memory} {a : Nat} {c : Host.Cell} (h : c ∈ m.erase a) : c ∈ m :=
  (List.mem_filter.1 h).1

theorem Memory.mem_store {dflt : Option Byte} {m : Memory} {a : Nat} {v : Byte} {c : Host.Cell}
    (h : c ∈ m.store dflt a v) : (c = (a, v) ∧ dflt ≠ some v) ∨ c ∈ m := by
  by_cases hv : dflt = some v
  · simp only [Memory.store, hv, if_true] at h
    exact .inr (Memory.mem_erase h)
  · simp only [Memory.store, hv, if_false] at h
    exact (Memory.mem_insert h).imp_left fun e => ⟨e, hv⟩

/-! ## The canonical form is kept -/

theorem Memory.rising_cons {c : Host.Cell} {m : Memory} :
    Memory.rising (c :: m) = true ↔ (∀ d ∈ m, c.1 < d.1) ∧ m.rising = true := by
  simp [Memory.rising]

theorem Memory.rising_insert {m : Memory} (h : m.rising = true) (a : Nat) (v : Byte) : (m.insert a v).rising = true := by
  induction m with
  | nil => rfl
  | cons d rest ih =>
    obtain ⟨k, w⟩ := d
    obtain ⟨hk, hr⟩ := Memory.rising_cons.1 h
    simp only [Memory.insert]
    split
    · rename_i hlt
      refine Memory.rising_cons.2 ⟨?_, h⟩
      intro d hd
      rcases List.mem_cons.1 hd with rfl | hd
      · exact hlt
      · exact Nat.lt_trans hlt (hk d hd)
    · split
      · rename_i _ heq
        exact Memory.rising_cons.2 ⟨fun d hd => heq ▸ hk d hd, hr⟩
      · rename_i hlt hne
        refine Memory.rising_cons.2 ⟨?_, ih hr⟩
        intro d hd
        rcases Memory.mem_insert hd with rfl | hd
        · exact Nat.lt_of_le_of_ne (Nat.le_of_not_lt hlt) (Ne.symm hne)
        · exact hk d hd

theorem Memory.rising_erase {m : Memory} (h : m.rising = true) (a : Nat) : (m.erase a).rising = true := by
  induction m with
  | nil => rfl
  | cons d rest ih =>
    obtain ⟨hd, hr⟩ := Memory.rising_cons.1 h
    by_cases hk : d.1 = a
    · have : Memory.erase (d :: rest) a = Memory.erase rest a := by simp [Memory.erase, hk]
      rw [this]; exact ih hr
    · have : Memory.erase (d :: rest) a = d :: Memory.erase rest a := by simp [Memory.erase, hk]
      rw [this]
      exact Memory.rising_cons.2 ⟨fun e he => hd e (Memory.mem_erase he), ih hr⟩

theorem Memory.wf_iff {dflt : Option Byte} {m : Memory} :
    m.wf dflt = true ↔ m.rising = true ∧ ∀ c ∈ m, dflt ≠ some c.2 := by
  simp [Memory.wf]

/-- A store keeps the canonical form. -/
theorem Memory.wf_store {dflt : Option Byte} {m : Memory} (h : m.wf dflt = true) (a : Nat) (v : Byte) :
    (m.store dflt a v).wf dflt = true := by
  obtain ⟨hr, hd⟩ := Memory.wf_iff.1 h
  refine Memory.wf_iff.2 ⟨?_, ?_⟩
  · unfold Memory.store
    split
    · exact Memory.rising_erase hr a
    · exact Memory.rising_insert hr a v
  · intro c hc
    rcases Memory.mem_store hc with ⟨rfl, hv⟩ | hc
    · exact hv
    · exact hd c hc

theorem Memory.inside_iff {n : Nat} {m : Memory} : m.inside n = true ↔ ∀ c ∈ m, c.1 < n := by
  simp [Memory.inside]

/-- A store below `n` keeps every listed offset below `n`. -/
theorem Memory.inside_store {n : Nat} {dflt : Option Byte} {m : Memory} (h : m.inside n = true) {a : Nat} (ha : a < n)
    (v : Byte) : (m.store dflt a v).inside n = true := by
  refine Memory.inside_iff.2 fun c hc => ?_
  rcases Memory.mem_store hc with ⟨rfl, -⟩ | hc
  · exact ha
  · exact Memory.inside_iff.1 h c hc

end Sys2Proof
end

