-- ==== Sys2Proof/Laws/Ops.lean ====
section
/-! SUPPORT. For each shared operation over the state, one lemma that says all it can do. -/

namespace Sys2Proof.Machine

/-! ## A transaction -/

theorem State.transact_of_running {s : State} (h : s.halted = false) (f : State → State) : s.transact f = .next (f s) := by
  simp [State.transact, h]

theorem State.transact_of_halted {s : State} (h : s.halted = true) (f : State → State) : s.transact f = .fault .halted := by
  simp [State.transact, h]

/-- A transaction answers a next state exactly when the router is not halted. -/
theorem State.transact_next {s t : State} {f : State → State} :
    s.transact f = .next t ↔ s.halted = false ∧ t = f s := by
  cases h : s.halted <;> simp [State.transact, h, eq_comm]

/-! ## The recovery path -/

/-- Outside strict mode, or for a kind other than UnmappedAddressError: one entry, value 0, proceed. -/
theorem State.unhandled_proceeds {s : State} {k : ErrorKind} (h : s.cfg.strict = false ∨ k ≠ .unmappedAddress) (t : Access) :
    s.unhandled k t = (s.log k t).reply .proceed 0 := by
  rcases h with h | h
  · simp [State.unhandled, h]
  · have : (k == ErrorKind.unmappedAddress) = false := by simpa using h
    simp [State.unhandled, this]

/-- In strict mode an UnmappedAddressError halts and aborts. -/
theorem State.unhandled_aborts {s : State} (h : s.cfg.strict = true) (t : Access) :
    s.unhandled .unmappedAddress t = ({ s.log .unmappedAddress t with halted := true }).reply .abort 0 := by
  simp [State.unhandled, h]

/-- All that the recovery path changes: the log, the answer, and `halted`. -/
theorem State.unhandled_eq (s : State) (k : ErrorKind) (t : Access) :
    ∃ h sig, s.unhandled k t = { s with
      diag := s.diag ++ [⟨k, t.isRead, t.addr, t.width, t.loggedData⟩], halted := h, answer := some ⟨sig, 0⟩ }
      ∧ (h = (s.halted || (s.cfg.strict && k == .unmappedAddress)))
      ∧ (sig = if s.cfg.strict && k == .unmappedAddress then .abort else .proceed) := by
  cases hc : s.cfg.strict && k == .unmappedAddress
  · exact ⟨s.halted, .proceed, by simp [State.unhandled, hc, State.log, State.reply], by simp, by simp⟩
  · exact ⟨true, .abort, by simp [State.unhandled, hc, State.log, State.reply], by simp, by simp⟩

/-- A peripheral's error never halts. -/
theorem State.busError_eq (s : State) (k : BusErrorKind) (t : Access) :
    s.busError k t = (s.log (match k with | .width => .busWidth | .unsupported => .busUnsupported) t).reply .proceed 0 := by
  cases k <;> exact State.unhandled_proceeds (.inr (by decide)) t

/-! ## Bytes -/

theorem beBytes_length (w : Width) (v : Word) : (beBytes w v).length = w.bytes := by simp [beBytes]

theorem beBytes_getElem (w : Width) (v : Word) (k : Nat) (h : k < (beBytes w v).length) : (beBytes w v)[k] = beByte w v k := by
  simp [beBytes]

theorem State.ramByte_setRamByte (s : State) (i x : Nat) (v : Byte) :
    (s.setRamByte i v).ramByte x = if i = x then v else s.ramByte x := by
  simp only [State.ramByte, State.setRamByte, Memory.find_store]
  by_cases h : i = x <;> simp [h]

theorem State.nvramByte_setNvramByte (s : State) (i x : Nat) (v : Byte) :
    (s.setNvramByte i v).nvramByte x = if i = x then v else s.nvramByte x := by
  simp only [State.nvramByte, State.setNvramByte, Memory.find_store_getD]

/-- Storing bytes in RAM: each lands at its offset, and every other byte reads as before. -/
theorem State.ramByte_setRamBytes (bs : List Byte) : ∀ (s : State) (off x : Nat),
    (s.setRamBytes off bs).ramByte x = if off ≤ x then (bs[x - off]?).getD (s.ramByte x) else s.ramByte x := by
  induction bs with
  | nil => intro s off x; simp [State.setRamBytes]
  | cons b rest ih =>
    intro s off x
    rw [State.setRamBytes, ih, State.ramByte_setRamByte]
    by_cases hx : off = x
    · subst hx
      simp
    · by_cases hle : off ≤ x
      · have h1 : off + 1 ≤ x := by omega
        have h2 : x - off = (x - (off + 1)) + 1 := by omega
        simp [hx, hle, h1, h2]
      · have h1 : ¬ off + 1 ≤ x := by omega
        simp [hx, hle, h1]

/-- The two big-endian bytes of a 16-bit value. -/
theorem halves_append (v : Word) : v.extractLsb' 8 8 ++ v.extractLsb' 0 8 = v.extractLsb' 0 16 :=
  BitVec.extractLsb'_append_extractLsb'_eq_extractLsb' (start₁ := 0) (len₁ := 8) (len₂ := 8) rfl

/-- The high byte of two joined bytes. -/
theorem append_high (x y : Byte) : BitVec.extractLsb' 8 8 (x ++ y) = x := by
  apply BitVec.eq_of_getLsbD_eq
  intro i hi
  simp only [BitVec.getLsbD_extractLsb', BitVec.getLsbD_append, hi]
  simp

/-- The low byte of two joined bytes. -/
theorem append_low (x y : Byte) : BitVec.extractLsb' 0 8 (x ++ y) = y := by
  apply BitVec.eq_of_getLsbD_eq
  intro i hi
  simp only [BitVec.getLsbD_extractLsb', BitVec.getLsbD_append, hi]
  simp [hi]

/-- The four big-endian bytes of a 32-bit value. -/
theorem quarters_append (v : Word) :
    v.extractLsb' 24 8 ++ v.extractLsb' 16 8 ++ v.extractLsb' 8 8 ++ v.extractLsb' 0 8 = v := by
  apply BitVec.eq_of_getLsbD_eq
  intro i hi
  simp only [BitVec.getLsbD_append, BitVec.getLsbD_extractLsb']
  interval_cases i <;> simp

/-- Read after write in RAM: the value written, truncated to the width. -/
theorem State.memRead_setRamBytes (s : State) (off : Nat) (w : Width) (v : Word) :
    memRead (s.setRamBytes off (beBytes w v)).ramByte off w = w.trunc v := by
  cases w <;> simp only [memRead, State.ramByte_setRamBytes]
  · simp [beBytes, beByte, Width.bytes, Width.trunc]
  · simp [beBytes, beByte, Width.bytes, Width.trunc, List.range_succ, halves_append]
  · simp [beBytes, beByte, Width.bytes, Width.trunc, List.range_succ, quarters_append]

end Sys2Proof.Machine
end

