-- ==== Sys2Proof/Laws/Exec.lean ====
section
/-! SUPPORT. For each operation one equation: what its arm of the dispatch runs, in the shared operations. -/

namespace Sys2Proof.Machine

@[simp] theorem exec_romStraddle (t : Access) (s : State) :
    exec (.romStraddle t) s = s.transact fun s => s.unhandled .unmappedAddress t := rfl

@[simp] theorem exec_ramStraddle (t : Access) (s : State) :
    exec (.ramStraddle t) s = s.transact fun s => s.unhandled .unmappedAddress t := rfl

@[simp] theorem exec_romRd (a : Word) (w : Width) (s : State) :
    exec (.romRd a w) s = s.transact fun s => s.reply .proceed (memRead s.romByte (s.cfg.offset .rom a) w) := rfl

@[simp] theorem exec_romWr (a : Word) (w : Width) (d : Word) (s : State) :
    exec (.romWr a w d) s = s.transact fun s => s.unhandled .unmappedAddress ⟨a, w, .write d⟩ := rfl

@[simp] theorem exec_ramRd (a : Word) (w : Width) (s : State) :
    exec (.ramRd a w) s = s.transact fun s => s.reply .proceed (memRead s.ramByte (s.cfg.offset .ram a) w) := rfl

@[simp] theorem exec_ramWr (a : Word) (w : Width) (d : Word) (s : State) :
    exec (.ramWr a w d) s = s.transact fun s => (s.setRamBytes (s.cfg.offset .ram a) (beBytes w d)).reply .proceed 0 := rfl

@[simp] theorem exec_rtcBadwidth (t : Access) (s : State) :
    exec (.rtcBadwidth t) s = s.transact fun s => s.busError .width t := rfl

@[simp] theorem exec_rtcWrNormal (a : Word) (d : Byte) (s : State) :
    exec (.rtcWrNormal a d) s = s.transact fun s =>
      ((s.setNvramByte (s.nvramAt a) d).detect (.write8 a d) (d.getLsbD 0)).reply .proceed 0 := rfl

@[simp] theorem exec_rtcRdNormal (a : Word) (s : State) :
    exec (.rtcRdNormal a) s = s.transact fun s => s.reply .proceed (zext32 (s.nvramByte (s.nvramAt a))) := rfl

@[simp] theorem exec_rtcWrSerial (a : Word) (d : Byte) (s : State) :
    exec (.rtcWrSerial a d) s = s.transact fun s => (s.serialCycle (.write8 a d)).reply .proceed 0 := rfl

@[simp] theorem exec_rtcRdSerial (a : Word) (s : State) :
    exec (.rtcRdSerial a) s = s.transact fun s => (s.serialCycle (.read8 a)).reply .proceed 0 := rfl

@[simp] theorem exec_duartBadwidth (t : Access) (s : State) :
    exec (.duartBadwidth t) s = s.transact fun s => s.busError .width t := rfl

@[simp] theorem exec_srRd (_a : Word) (ch : Channel) (s : State) :
    exec (.srRd a ch) s = s.transact fun s => s.reply .proceed (zext32 (s.chan ch).status) := rfl

@[simp] theorem exec_rhrRd (a : Word) (ch : Channel) (s : State) :
    exec (.rhrRd a ch) s = s.transact fun s =>
      match (s.chan ch).rxFifo with
      | b :: rest => (s.onChan ch fun d => { d with rxFifo := rest }).reply .proceed (zext32 b)
      | [] => (s.log .protocolViolation (.read8 a)).reply .proceed 0 := rfl

@[simp] theorem exec_mrWr (_a : Word) (ch : Channel) (_d : Byte) (s : State) :
    exec (.mrWr a ch d) s = s.transact fun s => (s.onChan ch fun c => { c with modeRegPtr := 1 }).reply .proceed 0 := rfl

@[simp] theorem exec_csrWr (_a : Word) (ch : Channel) (_d : Byte) (s : State) :
    exec (.csrWr a ch d) s = s.transact fun s => s.reply .proceed 0 := rfl

@[simp] theorem exec_crWr (a : Word) (ch : Channel) (d : Byte) (s : State) :
    exec (.crWr a ch d) s = s.transact fun s => (s.command ⟨a, ch, d⟩).reply .proceed 0 := rfl

@[simp] theorem exec_thrWr (_a : Word) (ch : Channel) (d : Byte) (s : State) :
    exec (.thrWr a ch d) s = s.transact fun s => (s.onChan ch fun c => c.transmit d).reply .proceed 0 := rfl

@[simp] theorem exec_acrWr (_a : Word) (_d : Byte) (s : State) :
    exec (.acrWr a d) s = s.transact fun s => s.reply .proceed 0 := rfl

@[simp] theorem exec_imrWr (_a : Word) (_d : Byte) (s : State) :
    exec (.imrWr a d) s = s.transact fun s => s.reply .proceed 0 := rfl

@[simp] theorem exec_cturWr (_a : Word) (d : Byte) (s : State) :
    exec (.cturWr a d) s = s.transact fun s =>
      ({ s with timerPeriod := d ++ s.timerPeriod.extractLsb' 0 8 }).reply .proceed 0 := rfl

@[simp] theorem exec_ctlrWr (_a : Word) (d : Byte) (s : State) :
    exec (.ctlrWr a d) s = s.transact fun s =>
      ({ s with timerPeriod := s.timerPeriod.extractLsb' 8 8 ++ d }).reply .proceed 0 := rfl

@[simp] theorem exec_ivrWr (_a : Word) (d : Byte) (s : State) :
    exec (.ivrWr a d) s = s.transact fun s => ({ s with irqVector := d }).reply .proceed 0 := rfl

@[simp] theorem exec_opcrWr (_a : Word) (_d : Byte) (s : State) :
    exec (.opcrWr a d) s = s.transact fun s => s.reply .proceed 0 := rfl

@[simp] theorem exec_oprSetWr (_a : Word) (_d : Byte) (s : State) :
    exec (.oprSetWr a d) s = s.transact fun s => s.reply .proceed 0 := rfl

@[simp] theorem exec_oprClrWr (_a : Word) (_d : Byte) (s : State) :
    exec (.oprClrWr a d) s = s.transact fun s => s.reply .proceed 0 := rfl

@[simp] theorem exec_duartUnimplRd (a : Word) (s : State) :
    exec (.duartUnimplRd a) s = s.transact fun s => s.busError .unsupported (.read8 a) := rfl

@[simp] theorem exec_duartUnimplWr (a : Word) (d : Byte) (s : State) :
    exec (.duartUnimplWr a d) s = s.transact fun s => s.busError .unsupported (.write8 a d) := rfl

@[simp] theorem exec_tubeBadwidth (t : Access) (s : State) :
    exec (.tubeBadwidth t) s = s.transact fun s => s.busError .width t := rfl

@[simp] theorem exec_tubeWr (_a : Word) (_d : Byte) (s : State) :
    exec (.tubeWr a d) s = s.transact fun s => s.reply .proceed 0 := rfl

@[simp] theorem exec_tubeRd (a : Word) (s : State) :
    exec (.tubeRd a) s = s.transact fun s => s.busError .unsupported (.read8 a) := rfl

@[simp] theorem exec_vfdBadwidth (t : Access) (s : State) :
    exec (.vfdBadwidth t) s = s.transact fun s => s.busError .width t := rfl

@[simp] theorem exec_vfdWr (_a : Word) (_d : Byte) (s : State) :
    exec (.vfdWr a d) s = s.transact fun s => s.reply .proceed 0 := rfl

@[simp] theorem exec_vfdRd (a : Word) (s : State) :
    exec (.vfdRd a) s = s.transact fun s => s.busError .unsupported (.read8 a) := rfl

@[simp] theorem exec_unmappedRd (a : Word) (w : Width) (s : State) :
    exec (.unmappedRd a w) s = s.transact fun s => s.unhandled .unmappedAddress ⟨a, w, .read⟩ := rfl

@[simp] theorem exec_unmappedWr (a : Word) (w : Width) (d : Word) (s : State) :
    exec (.unmappedWr a w d) s = s.transact fun s => s.unhandled .unmappedAddress ⟨a, w, .write d⟩ := rfl

@[simp] theorem exec_cmdNop (c : CmdWrite) (s : State) :
    exec (.cmdNop c) s = s.transact fun s => s.reply .proceed 0 := rfl

@[simp] theorem exec_cmdResetMrp (c : CmdWrite) (s : State) :
    exec (.cmdResetMrp c) s = s.transact fun s => (s.resetModePointer c).reply .proceed 0 := rfl

@[simp] theorem exec_cmdResetRx (c : CmdWrite) (s : State) :
    exec (.cmdResetRx c) s = s.transact fun s => (s.resetRx c).reply .proceed 0 := rfl

@[simp] theorem exec_cmdResetTx (c : CmdWrite) (s : State) :
    exec (.cmdResetTx c) s = s.transact fun s => (s.resetTx c).reply .proceed 0 := rfl

@[simp] theorem exec_cmdResetErr (c : CmdWrite) (s : State) :
    exec (.cmdResetErr c) s = s.transact fun s => (s.resetErrors c).reply .proceed 0 := rfl

@[simp] theorem exec_cmdResetBrkirq (c : CmdWrite) (s : State) :
    exec (.cmdResetBrkirq c) s = s.transact fun s => (s.resetBreakIrq c).reply .proceed 0 := rfl

@[simp] theorem exec_cmdStartBreak (c : CmdWrite) (s : State) :
    exec (.cmdStartBreak c) s = s.transact fun s => (s.unimplemented c).reply .proceed 0 := rfl

@[simp] theorem exec_cmdStopBreak (c : CmdWrite) (s : State) :
    exec (.cmdStopBreak c) s = s.transact fun s => (s.unimplemented c).reply .proceed 0 := rfl

@[simp] theorem exec_cmdSetRxbrg (c : CmdWrite) (s : State) :
    exec (.cmdSetRxbrg c) s = s.transact fun s => (s.setRxBrg c true).reply .proceed 0 := rfl

@[simp] theorem exec_cmdClrRxbrg (c : CmdWrite) (s : State) :
    exec (.cmdClrRxbrg c) s = s.transact fun s => (s.setRxBrg c false).reply .proceed 0 := rfl

@[simp] theorem exec_cmdSetTxbrg (c : CmdWrite) (s : State) :
    exec (.cmdSetTxbrg c) s = s.transact fun s => (s.setTxBrg c true).reply .proceed 0 := rfl

@[simp] theorem exec_cmdClrTxbrg (c : CmdWrite) (s : State) :
    exec (.cmdClrTxbrg c) s = s.transact fun s => (s.setTxBrg c false).reply .proceed 0 := rfl

@[simp] theorem exec_cmdStandby (c : CmdWrite) (s : State) :
    exec (.cmdStandby c) s = s.transact fun s => (s.unimplemented c).reply .proceed 0 := rfl

@[simp] theorem exec_cmdActive (c : CmdWrite) (s : State) :
    exec (.cmdActive c) s = s.transact fun s => (s.unimplemented c).reply .proceed 0 := rfl

@[simp] theorem exec_cmdRsvdE (c : CmdWrite) (s : State) :
    exec (.cmdRsvdE c) s = s.transact fun s => (s.unimplemented c).reply .proceed 0 := rfl

@[simp] theorem exec_cmdRsvdF (c : CmdWrite) (s : State) :
    exec (.cmdRsvdF c) s = s.transact fun s => (s.unimplemented c).reply .proceed 0 := rfl

@[simp] theorem exec_txcNochange (c : CmdWrite) (s : State) :
    exec (.txcNochange c) s = s.transact fun s => s.reply .proceed 0 := rfl

@[simp] theorem exec_txcEnable (c : CmdWrite) (s : State) :
    exec (.txcEnable c) s = s.transact fun s => (s.setTxOn c true).reply .proceed 0 := rfl

@[simp] theorem exec_txcDisable (c : CmdWrite) (s : State) :
    exec (.txcDisable c) s = s.transact fun s => (s.setTxOn c false).reply .proceed 0 := rfl

@[simp] theorem exec_txcReserved (c : CmdWrite) (s : State) :
    exec (.txcReserved c) s = s.transact fun s => (s.freeTxOn c).reply .proceed 0 := rfl

@[simp] theorem exec_rxcNochange (c : CmdWrite) (s : State) :
    exec (.rxcNochange c) s = s.transact fun s => s.reply .proceed 0 := rfl

@[simp] theorem exec_rxcEnable (c : CmdWrite) (s : State) :
    exec (.rxcEnable c) s = s.transact fun s => (s.setRxOn c true).reply .proceed 0 := rfl

@[simp] theorem exec_rxcDisable (c : CmdWrite) (s : State) :
    exec (.rxcDisable c) s = s.transact fun s => (s.setRxOn c false).reply .proceed 0 := rfl

@[simp] theorem exec_rxcReserved (c : CmdWrite) (s : State) :
    exec (.rxcReserved c) s = s.transact fun s => (s.freeRxOn c).reply .proceed 0 := rfl

@[simp] theorem exec_rxPush (ch : Channel) (b : Byte) (s : State) :
    exec (.rxPush ch b) s = .next (s.onChan ch fun c => { c with rxFifo := c.rxFifo ++ [b] }) := rfl

end Sys2Proof.Machine
end

