-- ==== Sys2Proof/Laws/Invariant.lean ====
section
/-! SUPPORT. Each shared operation keeps each part of the invariant. -/

namespace Sys2Proof.Machine

/-! ## The DS1244 -/

/-- The detector keeps R20 in Normal mode, which it may leave. -/
theorem State.RtcInv.detect {s : State} (h : s.RtcInv) (hn : s.activated = false) (t : Access) (bit : Bool) :
    (s.detect t bit).RtcInv := by
  have hb : s.bitsToShift = 0 := by
    have := h.serial_iff; rw [hn] at this; simpa using this.symm
  unfold State.detect
  split
  · split
    · exact ⟨rfl, fun _ => rfl, Nat.zero_le _, Nat.le_refl _⟩
    · refine ⟨h.serial_iff, fun ha => ?_, ?_, h.shift_le⟩
      · simp [hn] at ha
      · have := h.offset_le
        show s.magicSeqOffset + 1 ≤ 63
        omega
  · exact ⟨h.serial_iff, fun _ => rfl, Nat.zero_le _, h.shift_le⟩

/-- A serial cycle keeps R20 in Serial mode, which it may leave. -/
theorem State.RtcInv.serialCycle {s : State} (h : s.RtcInv) (ha : s.activated = true) (t : Access) :
    (s.serialCycle t).RtcInv := by
  unfold State.serialCycle
  split
  · exact ⟨rfl, fun hf => absurd hf (by simp), h.offset_le, Nat.zero_le _⟩
  · rename_i hne
    refine ⟨?_, h.no_progress, h.offset_le, ?_⟩
    · show s.activated = decide (0 < s.bitsToShift - 1)
      rw [ha]; exact (decide_eq_true (by omega)).symm
    · have := h.shift_le
      show s.bitsToShift - 1 ≤ 64
      omega

/-- Outside the DS1244's four elements nothing matters to R20. -/
theorem State.RtcInv.congr {s t : State} (h : s.RtcInv) (h1 : t.magicSeqOffset = s.magicSeqOffset)
    (h2 : t.activated = s.activated) (h3 : t.bitsToShift = s.bitsToShift) : t.RtcInv :=
  ⟨by rw [h2, h3]; exact h.serial_iff, by rw [h2, h1]; exact h.no_progress, by rw [h1]; exact h.offset_le,
   by rw [h3]; exact h.shift_le⟩

/-- The detector leaves everything but its own elements and the log alone. -/
theorem State.detect_eq (s : State) (t : Access) (bit : Bool) :
    ∃ p a b es, s.detect t bit = { s with magicSeqOffset := p, activated := a, bitsToShift := b, diag := s.diag ++ es }
      ∧ (es = [] ∨ es = [⟨.rtcActivated, t.isRead, t.addr, t.width, t.loggedData⟩]) := by
  unfold State.detect
  split
  · split
    · exact ⟨0, true, 64, [_], rfl, .inr rfl⟩
    · exact ⟨s.magicSeqOffset + 1, s.activated, s.bitsToShift, [], by simp, .inl rfl⟩
  · exact ⟨0, s.activated, s.bitsToShift, [], by simp, .inl rfl⟩

/-- A serial cycle leaves everything but its own elements and the log alone. -/
theorem State.serialCycle_eq (s : State) (t : Access) :
    ∃ a b es, s.serialCycle t = { s with activated := a, bitsToShift := b, diag := s.diag ++ es }
      ∧ (es = [] ∨ es = [⟨.rtcCompleted, t.isRead, t.addr, t.width, t.loggedData⟩]) := by
  unfold State.serialCycle
  split
  · exact ⟨false, 0, [_], rfl, .inr rfl⟩
  · exact ⟨s.activated, s.bitsToShift - 1, [], by simp, .inl rfl⟩

/-! ## The arrays -/

theorem State.MemInv.congr {s t : State} (h : s.MemInv) (h1 : t.rom = s.rom) (h2 : t.cfg = s.cfg) (h3 : t.ram = s.ram)
    (h4 : t.nvram = s.nvram) : t.MemInv :=
  ⟨by rw [h1, h2]; exact h.rom_image, by rw [h3]; exact h.ram_wf, by rw [h3, h2]; exact h.ram_inside,
   by rw [h4]; exact h.nvram_wf, by rw [h4]; exact h.nvram_inside⟩

/-- Bytes stored inside RAM keep the arrays' invariant. -/
theorem State.MemInv.setRamBytes (bs : List Byte) : ∀ {s : State} {off : Nat}, s.MemInv →
    off + bs.length ≤ s.cfg.ramSize → (s.setRamBytes off bs).MemInv := by
  induction bs with
  | nil => intro s off h _; exact h
  | cons b rest ih =>
    intro s off h hle
    simp only [List.length_cons] at hle
    refine ih (s := s.setRamByte off b) ?_ (by show off + 1 + rest.length ≤ s.cfg.ramSize; omega)
    exact ⟨h.rom_image, Memory.wf_store h.ram_wf .., Memory.inside_store (dflt := none) h.ram_inside (a := off) (by omega) b, h.nvram_wf,
      h.nvram_inside⟩

/-- The NVRAM index is always below 32KB (30_encoding.md R76). -/
theorem nvramIndex_lt (off : Nat) : nvramIndex off < nvramSize :=
  Nat.lt_of_le_of_lt Nat.and_le_right (by decide)

theorem State.MemInv.setNvramByte {s : State} (h : s.MemInv) (off : Nat) (v : Byte) :
    (s.setNvramByte (nvramIndex off) v).MemInv :=
  ⟨h.rom_image, h.ram_wf, h.ram_inside, Memory.wf_store h.nvram_wf .., Memory.inside_store h.nvram_inside (nvramIndex_lt off) _⟩

/-! ## The DUART -/

/-- With an empty transmit queue a transmit passes its byte through (42_duart.md R182). -/
theorem DuartChannel.transmit_of_empty {c : DuartChannel} (h : c.txFifo = []) (d : Byte) :
    c.transmit d = { c with txFifo := [], txOut := c.txOut ++ [d] } := by
  simp [DuartChannel.transmit, h]

theorem DuartChannel.Inv.transmit {c : DuartChannel} (h : c.Inv) (d : Byte) : (c.transmit d).Inv := by
  rw [DuartChannel.transmit_of_empty h.tx_empty]
  exact ⟨rfl, h.no_break, h.no_parity, h.no_framing, h.no_overrun, h.no_irq⟩

/-- A channel update that keeps the channel's invariant keeps that of both. -/
theorem State.onChan_Inv {s : State} (ha : s.chA.Inv) (hb : s.chB.Inv) {ch : Channel} {g : DuartChannel → DuartChannel}
    (hg : ∀ c : DuartChannel, c.Inv → (g c).Inv) : (s.onChan ch g).chA.Inv ∧ (s.onChan ch g).chB.Inv := by
  cases ch
  · exact ⟨hg _ ha, hb⟩
  · exact ⟨ha, hg _ hb⟩

/-! ## The shared operations keep the whole invariant -/

theorem State.Inv.reply {s : State} (h : s.Inv) (g : Signal) (v : Word) : (s.reply g v).Inv :=
  ⟨h.cfg_wf, h.mem.congr rfl rfl rfl rfl, h.rtc.congr rfl rfl rfl, h.chA, h.chB, h.halt_strict, h.no_resource⟩

theorem State.Inv.log {s : State} (h : s.Inv) {k : ErrorKind} (hk : k ≠ .resourceError) (t : Access) : (s.log k t).Inv := by
  refine ⟨h.cfg_wf, h.mem.congr rfl rfl rfl rfl, h.rtc.congr rfl rfl rfl, h.chA, h.chB, h.halt_strict, fun e he => ?_⟩
  simp only [State.log_diag, List.mem_append, List.mem_singleton] at he
  rcases he with he | rfl
  · exact h.no_resource e he
  · exact hk

theorem State.Inv.onChan {s : State} (h : s.Inv) {ch : Channel} {g : DuartChannel → DuartChannel}
    (hg : ∀ c : DuartChannel, c.Inv → (g c).Inv) : (s.onChan ch g).Inv :=
  have hc := State.onChan_Inv (ch := ch) h.chA h.chB hg
  ⟨by simpa using h.cfg_wf, h.mem.congr (by simp) (by simp) (by simp) (by simp), h.rtc.congr (by simp) (by simp) (by simp),
   hc.1, hc.2, by simpa using h.halt_strict, by simpa using h.no_resource⟩

theorem State.Inv.unhandled {s : State} (h : s.Inv) {k : ErrorKind} (hk : k ≠ .resourceError) (t : Access) :
    (s.unhandled k t).Inv := by
  have hl := h.log hk t
  unfold State.unhandled
  split
  · rename_i hc
    simp only [Bool.and_eq_true] at hc
    refine State.Inv.reply ?_ _ _
    exact ⟨hl.cfg_wf, hl.mem.congr rfl rfl rfl rfl, hl.rtc.congr rfl rfl rfl, hl.chA, hl.chB, fun _ => hc.1,
      hl.no_resource⟩
  · exact hl.reply _ _

theorem State.Inv.busError {s : State} (h : s.Inv) (k : BusErrorKind) (t : Access) : (s.busError k t).Inv := by
  cases k <;> exact h.unhandled (by decide) t

end Sys2Proof.Machine
end

