-- ==== Sys2Proof/Laws/PerInstr.lean ====
section
/-! SUPPORT. The family EncodedFrame: a property of every operation's encoding, one lemma per constructor. -/

namespace Sys2Proof.Laws.EncodedFrame

/-- The encoding is in a format of the table and, unless it is a reader agent's, has exactly one width bit
(30_encoding.md R75, R89). -/
def Statement (i : Instr) : Prop :=
  (encode i).format.toNat ≤ 4 ∧ ((encode i).format.toNat < 4 → (encode i).width.isSome = true)

/-- Every transaction's frame in formats 0 to 3. -/
theorem of_access (k : BitVec 4) (hk : k.toNat < 4) (t : Access) :
    (t.frame k).format.toNat ≤ 4 ∧ ((t.frame k).format.toNat < 4 → (t.frame k).width.isSome = true) := by
  simp only [Access.frame_format, Access.frame_width]
  exact ⟨by omega, fun _ => rfl⟩

theorem romStraddle (t : Access) : Statement (.romStraddle t) := of_access _ (by decide) _
theorem ramStraddle (t : Access) : Statement (.ramStraddle t) := of_access _ (by decide) _
theorem romRd (a : Word) (w : Width) : Statement (.romRd a w) := of_access _ (by decide) _
theorem romWr (a : Word) (w : Width) (d : Word) : Statement (.romWr a w d) := of_access _ (by decide) _
theorem ramRd (a : Word) (w : Width) : Statement (.ramRd a w) := of_access _ (by decide) _
theorem ramWr (a : Word) (w : Width) (d : Word) : Statement (.ramWr a w d) := of_access _ (by decide) _
theorem rtcBadwidth (t : Access) : Statement (.rtcBadwidth t) := of_access _ (by decide) _
theorem rtcWrNormal (a : Word) (d : Byte) : Statement (.rtcWrNormal a d) := of_access _ (by decide) _
theorem rtcRdNormal (a : Word) : Statement (.rtcRdNormal a) := of_access _ (by decide) _
theorem rtcWrSerial (a : Word) (d : Byte) : Statement (.rtcWrSerial a d) := of_access _ (by decide) _
theorem rtcRdSerial (a : Word) : Statement (.rtcRdSerial a) := of_access _ (by decide) _
theorem duartBadwidth (t : Access) : Statement (.duartBadwidth t) := of_access _ (by decide) _
theorem srRd (a : Word) (ch : Channel) : Statement (.srRd a ch) := of_access _ (by decide) _
theorem rhrRd (a : Word) (ch : Channel) : Statement (.rhrRd a ch) := of_access _ (by decide) _
theorem mrWr (a : Word) (ch : Channel) (d : Byte) : Statement (.mrWr a ch d) := of_access _ (by decide) _
theorem csrWr (a : Word) (ch : Channel) (d : Byte) : Statement (.csrWr a ch d) := of_access _ (by decide) _
theorem crWr (a : Word) (ch : Channel) (d : Byte) : Statement (.crWr a ch d) := of_access _ (by decide) _
theorem thrWr (a : Word) (ch : Channel) (d : Byte) : Statement (.thrWr a ch d) := of_access _ (by decide) _
theorem acrWr (a : Word) (d : Byte) : Statement (.acrWr a d) := of_access _ (by decide) _
theorem imrWr (a : Word) (d : Byte) : Statement (.imrWr a d) := of_access _ (by decide) _
theorem cturWr (a : Word) (d : Byte) : Statement (.cturWr a d) := of_access _ (by decide) _
theorem ctlrWr (a : Word) (d : Byte) : Statement (.ctlrWr a d) := of_access _ (by decide) _
theorem ivrWr (a : Word) (d : Byte) : Statement (.ivrWr a d) := of_access _ (by decide) _
theorem opcrWr (a : Word) (d : Byte) : Statement (.opcrWr a d) := of_access _ (by decide) _
theorem oprSetWr (a : Word) (d : Byte) : Statement (.oprSetWr a d) := of_access _ (by decide) _
theorem oprClrWr (a : Word) (d : Byte) : Statement (.oprClrWr a d) := of_access _ (by decide) _
theorem duartUnimplRd (a : Word) : Statement (.duartUnimplRd a) := of_access _ (by decide) _
theorem duartUnimplWr (a : Word) (d : Byte) : Statement (.duartUnimplWr a d) := of_access _ (by decide) _
theorem tubeBadwidth (t : Access) : Statement (.tubeBadwidth t) := of_access _ (by decide) _
theorem tubeWr (a : Word) (d : Byte) : Statement (.tubeWr a d) := of_access _ (by decide) _
theorem tubeRd (a : Word) : Statement (.tubeRd a) := of_access _ (by decide) _
theorem vfdBadwidth (t : Access) : Statement (.vfdBadwidth t) := of_access _ (by decide) _
theorem vfdWr (a : Word) (d : Byte) : Statement (.vfdWr a d) := of_access _ (by decide) _
theorem vfdRd (a : Word) : Statement (.vfdRd a) := of_access _ (by decide) _
theorem unmappedRd (a : Word) (w : Width) : Statement (.unmappedRd a w) := of_access _ (by decide) _
theorem unmappedWr (a : Word) (w : Width) (d : Word) : Statement (.unmappedWr a w d) := of_access _ (by decide) _
theorem cmdNop (c : CmdWrite) : Statement (.cmdNop c) := of_access _ (by decide) _
theorem cmdResetMrp (c : CmdWrite) : Statement (.cmdResetMrp c) := of_access _ (by decide) _
theorem cmdResetRx (c : CmdWrite) : Statement (.cmdResetRx c) := of_access _ (by decide) _
theorem cmdResetTx (c : CmdWrite) : Statement (.cmdResetTx c) := of_access _ (by decide) _
theorem cmdResetErr (c : CmdWrite) : Statement (.cmdResetErr c) := of_access _ (by decide) _
theorem cmdResetBrkirq (c : CmdWrite) : Statement (.cmdResetBrkirq c) := of_access _ (by decide) _
theorem cmdStartBreak (c : CmdWrite) : Statement (.cmdStartBreak c) := of_access _ (by decide) _
theorem cmdStopBreak (c : CmdWrite) : Statement (.cmdStopBreak c) := of_access _ (by decide) _
theorem cmdSetRxbrg (c : CmdWrite) : Statement (.cmdSetRxbrg c) := of_access _ (by decide) _
theorem cmdClrRxbrg (c : CmdWrite) : Statement (.cmdClrRxbrg c) := of_access _ (by decide) _
theorem cmdSetTxbrg (c : CmdWrite) : Statement (.cmdSetTxbrg c) := of_access _ (by decide) _
theorem cmdClrTxbrg (c : CmdWrite) : Statement (.cmdClrTxbrg c) := of_access _ (by decide) _
theorem cmdStandby (c : CmdWrite) : Statement (.cmdStandby c) := of_access _ (by decide) _
theorem cmdActive (c : CmdWrite) : Statement (.cmdActive c) := of_access _ (by decide) _
theorem cmdRsvdE (c : CmdWrite) : Statement (.cmdRsvdE c) := of_access _ (by decide) _
theorem cmdRsvdF (c : CmdWrite) : Statement (.cmdRsvdF c) := of_access _ (by decide) _
theorem txcNochange (c : CmdWrite) : Statement (.txcNochange c) := of_access _ (by decide) _
theorem txcEnable (c : CmdWrite) : Statement (.txcEnable c) := of_access _ (by decide) _
theorem txcDisable (c : CmdWrite) : Statement (.txcDisable c) := of_access _ (by decide) _
theorem txcReserved (c : CmdWrite) : Statement (.txcReserved c) := of_access _ (by decide) _
theorem rxcNochange (c : CmdWrite) : Statement (.rxcNochange c) := of_access _ (by decide) _
theorem rxcEnable (c : CmdWrite) : Statement (.rxcEnable c) := of_access _ (by decide) _
theorem rxcDisable (c : CmdWrite) : Statement (.rxcDisable c) := of_access _ (by decide) _
theorem rxcReserved (c : CmdWrite) : Statement (.rxcReserved c) := of_access _ (by decide) _
theorem rxPush (ch : Channel) (b : Byte) : Statement (.rxPush ch b) := by
  have h : (encode (.rxPush ch b)).format = 4 := pushFrame_format ch b
  exact ⟨by rw [h]; decide, by rw [h]; exact fun hlt => absurd hlt (by decide)⟩

end Sys2Proof.Laws.EncodedFrame
end

