-- ==== Sys2Proof/Laws/Step.lean ====
section
/-! SUPPORT. What taking a stimulus can do, said once. -/

namespace Sys2Proof.Machine

/-- A fetch gives an operation only from a legal configuration, for the head frame, which decodes to it. -/
theorem State.fetch_ok {s s' : State} {i : Instr} (h : s.fetch = .ok (i, s')) :
    s.cfg.wf = true ∧ ∃ f rest, s.inputs = f :: rest ∧ (s.halted && transactionFrame f) = false
      ∧ decode s.cfg s.activated f = .ok i ∧ s' = { s with inputs := rest, answer := none } := by
  unfold State.fetch at h
  split at h
  · rename_i hw
    refine ⟨hw, ?_⟩
    split at h
    · cases h
    · rename_i f rest hin
      split at h
      · cases h
      · rename_i hh
        split at h
        · cases h
        · rename_i j hj
          cases h
          exact ⟨f, rest, hin, by simpa using hh, hj, rfl⟩
  · cases h

/-- A step that answers a next state ran the operation its head frame decodes to. -/
theorem step_next {s t : State} (h : step s = .next t) :
    s.cfg.wf = true ∧ ∃ f rest i, s.inputs = f :: rest ∧ (s.halted && transactionFrame f) = false
      ∧ decode s.cfg s.activated f = .ok i ∧ exec i { s with inputs := rest, answer := none } = .next t := by
  unfold step at h
  split at h
  · rename_i r hr
    subst h
    unfold State.fetch at hr
    split at hr
    · split at hr
      · cases hr
      · split at hr
        · cases hr
        · split at hr <;> cases hr
    · cases hr
  · rename_i i s' hi
    obtain ⟨hw, f, rest, h1, h2, h3, rfl⟩ := State.fetch_ok hi
    exact ⟨hw, f, rest, i, h1, h2, h3, h⟩

/-- A run of two parts is the second part run from where the first one ends. -/
theorem execAll_append (a b : List Instr) : ∀ s t : State, execAll a s = .next t → execAll (a ++ b) s = execAll b t := by
  induction a with
  | nil => intro s t h; cases h; rfl
  | cons i a ih =>
    intro s t h
    simp only [List.cons_append, execAll] at h ⊢
    cases he : exec i s with
    | next u => rw [he] at h; exact ih u t h
    | fault r => rw [he] at h; cases h
    | refused r => rw [he] at h; cases h

end Sys2Proof.Machine
end

