-- ==== Sys2Proof/Tests/Slice0.lean ====
section
/-! SUPPORT. The model's own tests and, for each statement with hypotheses, a state and operands that meet them. The
expected values are those of spec/95_test_vectors.md (the vector is named) or are worked from the rule named. -/

namespace Sys2Proof.Tests

open Sys2Proof.Machine

/-! ## Well-formedness: for each check an ill-formed term it refuses -/

theorem test_wf_refuses_romStraddle_not_past_the_end :
    Instr.wf .reference (.romStraddle ⟨0x00FFFE, .w16, .read⟩) = false := by decide

theorem test_wf_refuses_ramStraddle_other_region :
    Instr.wf .reference (.ramStraddle ⟨0x06FFFF, .w16, .read⟩) = false := by decide

theorem test_wf_refuses_romRd_past_the_end : Instr.wf .reference (.romRd 0x00FFFF .w16) = false := by decide

theorem test_wf_refuses_romWr_outside_rom : Instr.wf .reference (.romWr 0x010000 .w8 0) = false := by decide

theorem test_wf_refuses_ramRd_unmasked_address : Instr.wf .reference (.ramRd 0x01050010 .w8) = false := by decide

theorem test_wf_refuses_ramWr_past_the_end : Instr.wf .reference (.ramWr 0x05FFFE .w32 0) = false := by decide

theorem test_wf_refuses_rtcBadwidth_width_8 :
    Instr.wf .reference (.rtcBadwidth ⟨0x020000, .w8, .read⟩) = false := by decide

theorem test_wf_refuses_rtcWrNormal_outside_window : Instr.wf .reference (.rtcWrNormal 0x030000 0) = false := by decide

theorem test_wf_refuses_rtcRdNormal_outside_window : Instr.wf .reference (.rtcRdNormal 0x01FFFF) = false := by decide

theorem test_wf_refuses_rtcWrSerial_outside_window : Instr.wf .reference (.rtcWrSerial 0x030000 0) = false := by decide

theorem test_wf_refuses_rtcRdSerial_outside_window : Instr.wf .reference (.rtcRdSerial 0x01FFFF) = false := by decide

theorem test_wf_refuses_duartBadwidth_width_8 :
    Instr.wf .reference (.duartBadwidth ⟨0x010000, .w8, .read⟩) = false := by decide

theorem test_wf_refuses_srRd_wrong_channel : Instr.wf .reference (.srRd 0x010001 .B) = false := by decide

theorem test_wf_refuses_rhrRd_wrong_index : Instr.wf .reference (.rhrRd 0x010001 .A) = false := by decide

theorem test_wf_refuses_mrWr_wrong_index : Instr.wf .reference (.mrWr 0x010001 .A 0) = false := by decide

theorem test_wf_refuses_csrWr_wrong_index : Instr.wf .reference (.csrWr 0x010000 .A 0) = false := by decide

theorem test_wf_refuses_crWr_wrong_channel : Instr.wf .reference (.crWr 0x01000A .A 0) = false := by decide

theorem test_wf_refuses_thrWr_wrong_index : Instr.wf .reference (.thrWr 0x010002 .A 0) = false := by decide

theorem test_wf_refuses_acrWr_wrong_index : Instr.wf .reference (.acrWr 0x010005 0) = false := by decide

theorem test_wf_refuses_imrWr_wrong_index : Instr.wf .reference (.imrWr 0x010004 0) = false := by decide

theorem test_wf_refuses_cturWr_wrong_index : Instr.wf .reference (.cturWr 0x010007 0) = false := by decide

theorem test_wf_refuses_ctlrWr_wrong_index : Instr.wf .reference (.ctlrWr 0x010006 0) = false := by decide

theorem test_wf_refuses_ivrWr_wrong_index : Instr.wf .reference (.ivrWr 0x01000D 0) = false := by decide

theorem test_wf_refuses_opcrWr_wrong_index : Instr.wf .reference (.opcrWr 0x01000C 0) = false := by decide

theorem test_wf_refuses_oprSetWr_wrong_index : Instr.wf .reference (.oprSetWr 0x01000F 0) = false := by decide

theorem test_wf_refuses_oprClrWr_wrong_index : Instr.wf .reference (.oprClrWr 0x01000E 0) = false := by decide

theorem test_wf_refuses_duartUnimplRd_described_read :
    Instr.wf .reference (.duartUnimplRd 0x010001) = false := by decide

theorem test_wf_refuses_duartUnimplWr_decoded_write :
    Instr.wf .reference (.duartUnimplWr 0x01000F 0) = false := by decide

theorem test_wf_refuses_tubeBadwidth_width_8 :
    Instr.wf .reference (.tubeBadwidth ⟨0x030000, .w8, .read⟩) = false := by decide

theorem test_wf_refuses_tubeWr_outside_window : Instr.wf .reference (.tubeWr 0x040000 0) = false := by decide

theorem test_wf_refuses_tubeRd_outside_window : Instr.wf .reference (.tubeRd 0x02FFFF) = false := by decide

theorem test_wf_refuses_vfdBadwidth_width_8 :
    Instr.wf .reference (.vfdBadwidth ⟨0x040000, .w8, .read⟩) = false := by decide

theorem test_wf_refuses_vfdWr_outside_window : Instr.wf .reference (.vfdWr 0x050000 0) = false := by decide

theorem test_wf_refuses_vfdRd_outside_window : Instr.wf .reference (.vfdRd 0x03FFFF) = false := by decide

theorem test_wf_refuses_unmappedRd_mapped : Instr.wf .reference (.unmappedRd 0x05FFFF .w8) = false := by decide

theorem test_wf_refuses_unmappedWr_unmasked_address :
    Instr.wf .reference (.unmappedWr 0x01060000 .w8 0) = false := by decide

theorem test_wf_refuses_cmdNop_other_nibble : Instr.wf .reference (.cmdNop ⟨0x010002, .A, 0x10⟩) = false := by decide

theorem test_wf_refuses_txcEnable_other_field :
    Instr.wf .reference (.txcEnable ⟨0x010002, .A, 0x08⟩) = false := by decide

theorem test_wf_refuses_rxcEnable_other_field :
    Instr.wf .reference (.rxcEnable ⟨0x010002, .A, 0x02⟩) = false := by decide

theorem test_wf_refuses_cmdResetRx_not_the_command_register :
    Instr.wf .reference (.cmdResetRx ⟨0x010003, .A, 0x20⟩) = false := by decide

theorem test_wf_refuses_a_command_of_another_nibble :
    ([Instr.cmdNop, Instr.cmdResetMrp, Instr.cmdResetRx, Instr.cmdResetTx, Instr.cmdResetErr, Instr.cmdResetBrkirq,
      Instr.cmdStartBreak, Instr.cmdStopBreak, Instr.cmdSetRxbrg, Instr.cmdClrRxbrg, Instr.cmdSetTxbrg, Instr.cmdClrTxbrg,
      Instr.cmdStandby, Instr.cmdActive, Instr.cmdRsvdE, Instr.cmdRsvdF, Instr.txcReserved,
      Instr.rxcReserved, Instr.txcDisable, Instr.rxcDisable].all fun row =>
      !Instr.wf .reference (row ⟨0x010002, .A, 0x94⟩) || !Instr.wf .reference (row ⟨0x010002, .A, 0x81⟩)) = true := by decide

theorem test_wf_refuses_nochange_of_another_field :
    Instr.wf .reference (.txcNochange ⟨0x010002, .A, 0x04⟩) = false ∧
    Instr.wf .reference (.rxcNochange ⟨0x010002, .A, 0x01⟩) = false := by decide

/-- The constraints of 00_scope.md R6, one broken at a time. -/
theorem test_config_wf : Config.reference.wf = true
    ∧ Config.wf { Config.reference with romBase := 0x100000 } = false
    ∧ Config.wf { Config.reference with ramBase := 0x040000 } = false
    ∧ Config.wf { Config.reference with vfdBase := 0x068000 } = false
    ∧ Config.wf { Config.reference with addrMask := 0x0000FFFF } = false
    ∧ Config.wf { Config.reference with romSize := 0 } = false := by decide

/-! ## Decoding: a word of each row, from 95_test_vectors.md or written out by 30_encoding.md R75 -/

/-- V-BUS-13. -/
theorem test_decode_romStraddle :
    decode .reference false ⟨0x20000FFFF, 0x0102⟩ = .ok (.romStraddle ⟨0x00FFFF, .w16, .write 0x0102⟩) := by decide

/-- P1 line 12. -/
theorem test_decode_ramStraddle :
    decode .reference false ⟨0xA0005FFFF, 0⟩ = .ok (.ramStraddle ⟨0x05FFFF, .w16, .read⟩) := by decide

/-- P1 line 2. -/
theorem test_decode_romRd : decode .reference false ⟨0xC00000004, 0⟩ = .ok (.romRd 0x000004 .w32) := by decide

/-- P1 line 8. -/
theorem test_decode_romWr : decode .reference false ⟨0x100000004, 0xFF⟩ = .ok (.romWr 0x000004 .w8 0xFF) := by decide

/-- P1 line 5. -/
theorem test_decode_ramRd : decode .reference false ⟨0xA00050012, 0⟩ = .ok (.ramRd 0x050012 .w16) := by decide

/-- P1 line 3. -/
theorem test_decode_ramWr :
    decode .reference false ⟨0x400050010, 0x11223344⟩ = .ok (.ramWr 0x050010 .w32 0x11223344) := by decide

/-- P4 line 3. -/
theorem test_decode_rtcBadwidth :
    decode .reference false ⟨0x200020000, 0x0101⟩ = .ok (.rtcBadwidth ⟨0x020000, .w16, .write 0x0101⟩) := by decide

/-- P2 line 2. -/
theorem test_decode_rtcWrNormal :
    decode .reference false ⟨0x100020010, 0x01⟩ = .ok (.rtcWrNormal 0x020010 0x01) := by decide

/-- P2 line 1. -/
theorem test_decode_rtcRdNormal : decode .reference false ⟨0x900020010, 0⟩ = .ok (.rtcRdNormal 0x020010) := by decide

/-- P2 line 67. -/
theorem test_decode_rtcWrSerial :
    decode .reference true ⟨0x100020010, 0xFF⟩ = .ok (.rtcWrSerial 0x020010 0xFF) := by decide

/-- P2 line 66. -/
theorem test_decode_rtcRdSerial : decode .reference true ⟨0x900020010, 0⟩ = .ok (.rtcRdSerial 0x020010) := by decide

/-- P4 line 14. -/
theorem test_decode_duartBadwidth :
    decode .reference false ⟨0xA00010003, 0⟩ = .ok (.duartBadwidth ⟨0x010003, .w16, .read⟩) := by decide

/-- P3 line 16. -/
theorem test_decode_srRd : decode .reference false ⟨0x900010009, 0⟩ = .ok (.srRd 0x010009 .B) := by decide

/-- P3 line 9. -/
theorem test_decode_rhrRd : decode .reference false ⟨0x900010003, 0⟩ = .ok (.rhrRd 0x010003 .A) := by decide

/-- V-DUART-12. -/
theorem test_decode_mrWr : decode .reference false ⟨0x100010008, 0x00⟩ = .ok (.mrWr 0x010008 .B 0x00) := by decide

/-- V-DUART-25. -/
theorem test_decode_csrWr : decode .reference false ⟨0x100010001, 0xBB⟩ = .ok (.csrWr 0x010001 .A 0xBB) := by decide

/-- P3 line 2. -/
theorem test_decode_crWr : decode .reference false ⟨0x100010002, 0x05⟩ = .ok (.crWr 0x010002 .A 0x05) := by decide

/-- P3 line 17. -/
theorem test_decode_thrWr : decode .reference false ⟨0x10001000B, 0x42⟩ = .ok (.thrWr 0x01000B .B 0x42) := by decide

/-- V-DUART-25. -/
theorem test_decode_acrWr : decode .reference false ⟨0x100010004, 0x60⟩ = .ok (.acrWr 0x010004 0x60) := by decide

/-- V-DUART-25. -/
theorem test_decode_imrWr : decode .reference false ⟨0x100010005, 0xFF⟩ = .ok (.imrWr 0x010005 0xFF) := by decide

/-- P3 line 18. -/
theorem test_decode_cturWr : decode .reference false ⟨0x100010006, 0x12⟩ = .ok (.cturWr 0x010006 0x12) := by decide

/-- P3 line 19. -/
theorem test_decode_ctlrWr : decode .reference false ⟨0x100010007, 0x34⟩ = .ok (.ctlrWr 0x010007 0x34) := by decide

/-- V-DUART-24. -/
theorem test_decode_ivrWr : decode .reference false ⟨0x10001000C, 0x40⟩ = .ok (.ivrWr 0x01000C 0x40) := by decide

/-- V-DUART-25. -/
theorem test_decode_opcrWr : decode .reference false ⟨0x10001000D, 0x00⟩ = .ok (.opcrWr 0x01000D 0x00) := by decide

/-- V-DUART-25. -/
theorem test_decode_oprSetWr : decode .reference false ⟨0x10001000E, 0xFF⟩ = .ok (.oprSetWr 0x01000E 0xFF) := by decide

/-- V-DUART-25. -/
theorem test_decode_oprClrWr : decode .reference false ⟨0x10001000F, 0xFF⟩ = .ok (.oprClrWr 0x01000F 0xFF) := by decide

/-- P4 line 12. -/
theorem test_decode_duartUnimplRd :
    decode .reference false ⟨0x900010002, 0⟩ = .ok (.duartUnimplRd 0x010002) := by decide

/-- P4 line 13. -/
theorem test_decode_duartUnimplWr :
    decode .reference false ⟨0x100010010, 0x00⟩ = .ok (.duartUnimplWr 0x010010 0x00) := by decide

/-- P4 line 9. -/
theorem test_decode_tubeBadwidth :
    decode .reference false ⟨0xA00030000, 0⟩ = .ok (.tubeBadwidth ⟨0x030000, .w16, .read⟩) := by decide

/-- V-SINK-1. -/
theorem test_decode_tubeWr : decode .reference false ⟨0x10003FFFF, 0xFF⟩ = .ok (.tubeWr 0x03FFFF 0xFF) := by decide

/-- P4 line 8. -/
theorem test_decode_tubeRd : decode .reference false ⟨0x900030000, 0⟩ = .ok (.tubeRd 0x030000) := by decide

/-- P4 line 11. -/
theorem test_decode_vfdBadwidth :
    decode .reference false ⟨0x400040000, 0x41424344⟩ = .ok (.vfdBadwidth ⟨0x040000, .w32, .write 0x41424344⟩) := by decide

/-- P4 line 10. -/
theorem test_decode_vfdWr : decode .reference false ⟨0x100040000, 0x41⟩ = .ok (.vfdWr 0x040000 0x41) := by decide

/-- V-SINK-2. -/
theorem test_decode_vfdRd : decode .reference false ⟨0x90004ABCD, 0⟩ = .ok (.vfdRd 0x04ABCD) := by decide

/-- P1 line 10. -/
theorem test_decode_unmappedRd : decode .reference false ⟨0xC00800000, 0⟩ = .ok (.unmappedRd 0x800000 .w32) := by decide

/-- P1 line 11. -/
theorem test_decode_unmappedWr :
    decode .reference false ⟨0x200060000, 0x1234⟩ = .ok (.unmappedWr 0x060000 .w16 0x1234) := by decide

theorem test_decode_cmdNop :
    decode .reference false ⟨0x1100010002, 0x00⟩ = .ok (.cmdNop ⟨0x010002, .A, 0x00⟩) := by decide

theorem test_decode_cmdResetMrp :
    decode .reference false ⟨0x1100010002, 0x10⟩ = .ok (.cmdResetMrp ⟨0x010002, .A, 0x10⟩) := by decide

theorem test_decode_cmdResetRx :
    decode .reference false ⟨0x1100010002, 0x20⟩ = .ok (.cmdResetRx ⟨0x010002, .A, 0x20⟩) := by decide

theorem test_decode_cmdResetTx :
    decode .reference false ⟨0x1100010002, 0x30⟩ = .ok (.cmdResetTx ⟨0x010002, .A, 0x30⟩) := by decide

theorem test_decode_cmdResetErr :
    decode .reference false ⟨0x1100010002, 0x40⟩ = .ok (.cmdResetErr ⟨0x010002, .A, 0x40⟩) := by decide

theorem test_decode_cmdResetBrkirq :
    decode .reference false ⟨0x1100010002, 0x50⟩ = .ok (.cmdResetBrkirq ⟨0x010002, .A, 0x50⟩) := by decide

theorem test_decode_cmdStartBreak :
    decode .reference false ⟨0x1100010002, 0x60⟩ = .ok (.cmdStartBreak ⟨0x010002, .A, 0x60⟩) := by decide

theorem test_decode_cmdStopBreak :
    decode .reference false ⟨0x1100010002, 0x70⟩ = .ok (.cmdStopBreak ⟨0x010002, .A, 0x70⟩) := by decide

theorem test_decode_cmdSetRxbrg :
    decode .reference false ⟨0x1100010002, 0x80⟩ = .ok (.cmdSetRxbrg ⟨0x010002, .A, 0x80⟩) := by decide

theorem test_decode_cmdClrRxbrg :
    decode .reference false ⟨0x1100010002, 0x90⟩ = .ok (.cmdClrRxbrg ⟨0x010002, .A, 0x90⟩) := by decide

theorem test_decode_cmdSetTxbrg :
    decode .reference false ⟨0x1100010002, 0xA0⟩ = .ok (.cmdSetTxbrg ⟨0x010002, .A, 0xA0⟩) := by decide

theorem test_decode_cmdClrTxbrg :
    decode .reference false ⟨0x1100010002, 0xB0⟩ = .ok (.cmdClrTxbrg ⟨0x010002, .A, 0xB0⟩) := by decide

theorem test_decode_cmdStandby :
    decode .reference false ⟨0x1100010002, 0xC0⟩ = .ok (.cmdStandby ⟨0x010002, .A, 0xC0⟩) := by decide

theorem test_decode_cmdActive :
    decode .reference false ⟨0x1100010002, 0xD0⟩ = .ok (.cmdActive ⟨0x010002, .A, 0xD0⟩) := by decide

theorem test_decode_cmdRsvdE :
    decode .reference false ⟨0x1100010002, 0xE0⟩ = .ok (.cmdRsvdE ⟨0x010002, .A, 0xE0⟩) := by decide

theorem test_decode_cmdRsvdF :
    decode .reference false ⟨0x1100010002, 0xF0⟩ = .ok (.cmdRsvdF ⟨0x010002, .A, 0xF0⟩) := by decide

theorem test_decode_txcNochange :
    decode .reference false ⟨0x2100010002, 0x00⟩ = .ok (.txcNochange ⟨0x010002, .A, 0x00⟩) := by decide

theorem test_decode_txcEnable :
    decode .reference false ⟨0x2100010002, 0x04⟩ = .ok (.txcEnable ⟨0x010002, .A, 0x04⟩) := by decide

theorem test_decode_txcDisable :
    decode .reference false ⟨0x2100010002, 0x08⟩ = .ok (.txcDisable ⟨0x010002, .A, 0x08⟩) := by decide

theorem test_decode_txcReserved :
    decode .reference false ⟨0x2100010002, 0x0C⟩ = .ok (.txcReserved ⟨0x010002, .A, 0x0C⟩) := by decide

theorem test_decode_rxcNochange :
    decode .reference false ⟨0x310001000A, 0x00⟩ = .ok (.rxcNochange ⟨0x01000A, .B, 0x00⟩) := by decide

theorem test_decode_rxcEnable :
    decode .reference false ⟨0x310001000A, 0x01⟩ = .ok (.rxcEnable ⟨0x01000A, .B, 0x01⟩) := by decide

theorem test_decode_rxcDisable :
    decode .reference false ⟨0x310001000A, 0x02⟩ = .ok (.rxcDisable ⟨0x01000A, .B, 0x02⟩) := by decide

theorem test_decode_rxcReserved :
    decode .reference false ⟨0x310001000A, 0x03⟩ = .ok (.rxcReserved ⟨0x01000A, .B, 0x03⟩) := by decide

/-- `PUSH B, 0x42` of V-DUART-20, in the model's layout (log 2). -/
theorem test_decode_rxPush : decode .reference false ⟨0x4000000001, 0x42⟩ = .ok (.rxPush .B 0x42) := by decide

/-! ## Refused encodings -/

/-- V-BUS-19: 24 bits is no one-hot width. -/
theorem test_decode_refuses_width_24 : decode .reference false ⟨0x300050000, 0⟩ = .error .badWidth := by decide

theorem test_decode_refuses_format_5 : decode .reference false ⟨0x5100010002, 0⟩ = .error .badFormat := by decide

theorem test_decode_refuses_command_read :
    decode .reference false ⟨0x1900010002, 0⟩ = .error .notCommandWrite := by decide

theorem test_decode_refuses_wide_push : decode .reference false ⟨0x4000000000, 0x100⟩ = .error .badAgent := by decide

theorem test_decode_refuses_short : decodeBytes .reference false [0, 0, 0, 0, 0, 0, 0, 0] = .error .short := by decide

/-- V-BUS-7. -/
theorem test_decode_masks_the_address :
    decode .reference false ⟨0xCFF050010, 0⟩ = .ok (.ramRd 0x050010 .w32) := by decide

theorem test_table_word_romRd : decodeTableWord 40 0x800000000 = some (.romRd 0 .w16) := by decide

theorem test_table_word_command : decodeTableWord 8 0x20 = some (.cmdResetRx ⟨0x010002, .A, 0x20⟩) := by decide

/-! ## One step -/

/-- One step on one frame: what `g` sees of the next state. -/
def after {α : Type} (s : State) (key : BitVec 40) (data : Word) (g : State → α) : Option α :=
  match step { s with inputs := [⟨key, data⟩] } with
  | .next t => some (g t)
  | _ => none

/-- A channel that holds these received bytes. -/
def queued (q : List Byte) : State := { State.reset with chA := { DuartChannel.reset with rxFifo := q } }

/-- Serial mode with `n` cycles left. -/
def serial (n : Nat) : State := { State.reset with activated := true, bitsToShift := n }

/-- The strict configuration. -/
def strict : State := .resetWith { Config.reference with strict := true }

/-- What the log and the answer show. -/
def seen (t : State) : List DiagEntry × Option Answer := (t.diag, t.answer)

/-- The codes of 60_exceptions.md R229. -/
theorem test_codes : ([.busWidth, .busUnsupported, .unmappedAddress, .protocolViolation, .resourceError, .rtcActivated,
    .rtcCompleted, .duartUnimplementedCommand] : List ErrorKind).map ErrorKind.code = [1, 2, 3, 4, 5, 16, 17, 18] := by decide

/-- V-SRC-1. -/
theorem test_step_romRd :
    after (.resetWith { Config.reference with romImage := [(0, 0x00), (1, 0x06), (2, 0x00), (3, 0x00)] }) 0xC00000000 0 seen = some ([], some ⟨.proceed, 0x00060000⟩) := by decide

/-- P1 line 8. -/
theorem test_step_romWr :
    after .reset 0x100000004 0xFF seen = some ([⟨.unmappedAddress, false, 0x000004, .w8, 0xFF⟩], some ⟨.proceed, 0⟩) := by decide

/-- V-BUS-13. -/
theorem test_step_romStraddle :
    after .reset 0x20000FFFF 0x0102 seen = some ([⟨.unmappedAddress, false, 0x00FFFF, .w16, 0x0102⟩], some ⟨.proceed, 0⟩) := by decide

/-- P1 line 12. -/
theorem test_step_ramStraddle :
    after .reset 0xA0005FFFF 0 seen = some ([⟨.unmappedAddress, true, 0x05FFFF, .w16, 0⟩], some ⟨.proceed, 0⟩) := by decide

/-- V-BUS-1. -/
theorem test_step_ramWr :
    after .reset 0x400050010 0x11223344 State.ram = some [(0x10, 0x11), (0x11, 0x22), (0x12, 0x33), (0x13, 0x44)] := by decide

/-- V-BUS-5. -/
theorem test_step_ramWr_truncates : after .reset 0x100050020 0x12345678 State.ram = some [(0x20, 0x78)] := by decide

/-- V-BUS-3. -/
theorem test_step_ramRd :
    after { State.reset with ram := [(0x10, 0x11), (0x11, 0x22), (0x12, 0x33), (0x13, 0x44)] } 0xA00050011 0 seen = some ([], some ⟨.proceed, 0x2233⟩) := by decide

/-- V-BUS-16: in strict mode. -/
theorem test_step_unmappedRd :
    after strict 0x900060000 0 seen = some ([⟨.unmappedAddress, true, 0x060000, .w8, 0⟩], some ⟨.abort, 0⟩) := by decide

/-- V-ERR-3: the logged data is truncated. -/
theorem test_step_unmappedWr :
    after .reset 0x100060000 0x1FF seen = some ([⟨.unmappedAddress, false, 0x060000, .w8, 0xFF⟩], some ⟨.proceed, 0⟩) := by decide

/-- V-BUS-17: no window error aborts. -/
theorem test_step_rtcBadwidth :
    after strict 0xA00020000 0 seen = some ([⟨.busWidth, true, 0x020000, .w16, 0⟩], some ⟨.proceed, 0⟩) := by decide

/-- V-RTC-1 and V-RTC-2: the mirror, and a mismatch. -/
theorem test_step_rtcWrNormal :
    after .reset 0x100028123 0x5A (fun t => (t.nvram, t.magicSeqOffset)) = some ([(0x123, 0x5A)], 0) := by decide

/-- V-RTC-17. -/
theorem test_step_rtcWrNormal_activates :
    after { State.reset with magicSeqOffset := 63 } 0x100020000 0x00 (fun t => (t.activated, t.bitsToShift, t.magicSeqOffset, t.diag.map fun e => e.kind.code)) = some (true, 64, 0, [16]) := by decide

/-- V-RTC-1. -/
theorem test_step_rtcRdNormal :
    after { State.reset with nvram := [(0x123, 0x5A)] } 0x900028123 0 seen = some ([], some ⟨.proceed, 0x5A⟩) := by decide

/-- V-RTC-12. -/
theorem test_step_rtcWrSerial :
    after (serial 63) 0x100020000 0xFF (fun t => (t.bitsToShift, t.activated, t.nvram)) = some (62, true, []) := by decide

/-- V-RTC-18. -/
theorem test_step_rtcRdSerial :
    after (serial 1) 0x900020000 0 (fun t => (t.bitsToShift, t.activated, t.answer.map Answer.value, t.diag.map fun e => e.kind.code)) = some (0, false, some 0, [17]) := by decide

/-- V-DUART-28. -/
theorem test_step_duartBadwidth :
    after (queued [0x41]) 0xA00010002 0 seen = some ([⟨.busWidth, true, 0x010002, .w16, 0⟩], some ⟨.proceed, 0⟩) := by decide

/-- V-DUART-1, k = 4, transmitter off. -/
theorem test_step_srRd : after (queued [1, 2, 3, 4]) 0x900010001 0 seen = some ([], some ⟨.proceed, 0x01⟩) := by decide

/-- P3 line 9. -/
theorem test_step_rhrRd : after (queued [0x4F, 0x4B]) 0x900010003 0 seen = some ([], some ⟨.proceed, 0x4F⟩) := by decide

/-- V-DUART-18. -/
theorem test_step_rhrRd_empty :
    after .reset 0x900010003 0 seen = some ([⟨.protocolViolation, true, 0x010003, .w8, 0⟩], some ⟨.proceed, 0⟩) := by decide

/-- V-DUART-12. -/
theorem test_step_mrWr :
    after .reset 0x100010008 0x00 (fun t => (t.chA.modeRegPtr, t.chB.modeRegPtr)) = some (0, 1) := by decide

/-- V-DUART-25. -/
theorem test_step_csrWr : after .reset 0x100010001 0xBB seen = some ([], some ⟨.proceed, 0⟩) := by decide

/-- V-DUART-8 and V-DUART-9. -/
theorem test_step_crWr :
    after (queued [0x41]) 0x100010002 0x25 (fun t => (t.chA.rxFifo, t.chA.rxOn, t.chA.txOn)) = some ([], false, true) := by decide

/-- P4 line 15. -/
theorem test_step_crWr_unimplemented :
    after .reset 0x100010002 0xC0 seen = some ([⟨.duartUnimplementedCommand, false, 0x010002, .w8, 0xC0⟩], some ⟨.proceed, 0⟩) := by decide

/-- V-DUART-17. -/
theorem test_step_thrWr :
    after .reset 0x10001000B 0x42 (fun t => (t.chA.txOut, t.chB.txOut, t.chB.txFifo)) = some ([], [0x42], []) := by decide

/-- V-DUART-23. -/
theorem test_step_cturWr :
    after { State.reset with timerPeriod := 0xAA34 } 0x100010006 0x12 State.timerPeriod = some 0x1234 := by decide

/-- V-DUART-23. -/
theorem test_step_ctlrWr :
    after { State.reset with timerPeriod := 0x12AA } 0x100010007 0x34 State.timerPeriod = some 0x1234 := by decide

/-- V-DUART-24. -/
theorem test_step_ivrWr : after .reset 0x10001000C 0x40 State.irqVector = some 0x40 := by decide

/-- P4 line 12. -/
theorem test_step_duartUnimplRd :
    after .reset 0x900010002 0 seen = some ([⟨.busUnsupported, true, 0x010002, .w8, 0⟩], some ⟨.proceed, 0⟩) := by decide

/-- V-DUART-27. -/
theorem test_step_duartUnimplWr :
    after .reset 0x100010010 0x05 seen = some ([⟨.busUnsupported, false, 0x010010, .w8, 0x05⟩], some ⟨.proceed, 0⟩) := by decide

/-- V-SINK-3. -/
theorem test_step_tubeBadwidth :
    after .reset 0xC00030000 0 seen = some ([⟨.busWidth, true, 0x030000, .w32, 0⟩], some ⟨.proceed, 0⟩) := by decide

/-- P4 line 8. -/
theorem test_step_tubeRd :
    after .reset 0x900030000 0 seen = some ([⟨.busUnsupported, true, 0x030000, .w8, 0⟩], some ⟨.proceed, 0⟩) := by decide

/-- V-SINK-1. -/
theorem test_step_vfdWr : after .reset 0x100040002 0x41 seen = some ([], some ⟨.proceed, 0⟩) := by decide

/-- P4 line 11. -/
theorem test_step_vfdBadwidth :
    after .reset 0x400040000 0x41424344 seen = some ([⟨.busWidth, false, 0x040000, .w32, 0x41424344⟩], some ⟨.proceed, 0⟩) := by decide

/-- V-DUART-13. -/
theorem test_step_cmdSetTxbrg :
    after .reset 0x1100010002 0xA0 (fun t => (t.chA.txBrgExt, t.chA.rxBrgExt)) = some (true, false) := by decide

/-- V-DUART-5. -/
theorem test_step_txcEnable :
    after .reset 0x2100010002 0x04 (fun t => (t.chA.txOn, t.chA.rxOn)) = some (true, false) := by decide

/-- V-DUART-5. -/
theorem test_step_rxcEnable :
    after .reset 0x3100010002 0x01 (fun t => (t.chA.txOn, t.chA.rxOn)) = some (false, true) := by decide

/-- R196, also while halted (log 18). -/
theorem test_step_rxPush :
    after { State.reset with halted := true } 0x4000000000 0x41 (fun t => (t.chA.rxFifo, t.chB.rxFifo)) = some ([0x41], []) := by decide

/-- V-BUS-16, second line. -/
theorem test_step_halted :
    step { State.reset with halted := true, inputs := [⟨0x900050000, 0⟩] } = .fault .halted := rfl

theorem test_fetch_word :
    (match (State.reset.withFetchWord 40 0x900030000).fetch with | .ok (i, _) => some i | .error _ => none) =
    some (.tubeRd 0x030000) := by decide

/-! ## Witnesses: the hypotheses of each statement can be met together -/

theorem witness_DecodeInvertsEncode :
    ∀ m, Instr.wf .reference (if m then .rtcWrSerial 0x02FFFF 1 else .rtcWrNormal 0x02FFFF 1) = true ∧
    Instr.selectedIn (if m then .rtcWrSerial 0x02FFFF 1 else .rtcWrNormal 0x02FFFF 1) m = true := by decide

theorem witness_ByteStreamDecodeInvertsEncode :
    Instr.wf .reference (.ramWr 0x05FFFC .w32 7) = true ∧
    Instr.selectedIn (.ramWr 0x05FFFC .w32 7) false = true := by decide

theorem witness_DecodedOperationIsWellFormed :
    decode .reference false ⟨0xA0005FFFE, 0⟩ = .ok (.ramRd 0x05FFFE .w16) := by decide

theorem witness_DispatchIsFirstMatchingTableRow :
    Config.reference.mask 0x00FFFFFF = 0x00FFFFFF ∧ Config.reference.mask 0 = 0 := by decide

theorem witness_MaskedAddressesAlias : let f : Frame := ⟨0xCFF050010, 0⟩
    let g : Frame := ⟨0xC00050010, 5⟩
    f.format = g.format ∧ f.format.toNat < 4 ∧ f.width = g.width ∧ f.isRead = g.isRead ∧ (f.isRead = false → f.data = g.data)
    ∧ f.address &&& Config.reference.addrMask = g.address &&& Config.reference.addrMask := by decide

theorem witness_DataAboveWidthIgnored : let f : Frame := ⟨0x100050020, 0x12345678⟩
    let g : Frame := ⟨0x100050020, 0x78⟩
    f.key = g.key ∧ f.format.toNat < 4 ∧ f.width = some .w8 ∧ Width.trunc .w8 f.data = Width.trunc .w8 g.data := by decide

theorem witness_WidthOutsideInterfaceRefused : ∀ f ∈ [(⟨0x000050000, 0⟩ : Frame), ⟨0x300050000, 0⟩, ⟨0x700050000, 0⟩],
    State.reset.cfg.wf = true ∧ State.reset.halted = false ∧ f.format.toNat < 4 ∧ f.key.extractLsb' 32 3 ≠ 0b001#3
    ∧ f.key.extractLsb' 32 3 ≠ 0b010#3 ∧ f.key.extractLsb' 32 3 ≠ 0b100#3 := by decide

theorem witness_ConfigurationConstraints : Config.reference.wf = true
    ∧ (State.resetWith { Config.reference with romSize := 0 }).cfg.wf = false := by decide

/-- The first and last address of a window, and an address of no region. -/
theorem witness_AddressDecodesByRange : Config.reference.wf = true
    ∧ Frame.access .reference ⟨0x9FF020000, 0⟩ = some ⟨0x020000, .w8, .read⟩
    ∧ Config.reference.region 0x020000 = some .rtc ∧ Config.reference.region 0x02FFFF = some .rtc
    ∧ Config.reference.region 0x060000 = none := by decide

/-- Running, and halted with a push. -/
theorem witness_StepRunsDecodedOperation : State.reset.cfg.wf = true
    ∧ decode State.reset.cfg State.reset.activated ⟨0x900030000, 0⟩ = .ok (.tubeRd 0x030000)
    ∧ 4 ≤ (⟨0x4000000000, 0x41⟩ : Frame).format.toNat
    ∧ decode State.reset.cfg State.reset.activated ⟨0x4000000000, 0x41⟩ = .ok (.rxPush .A 0x41) := by decide

theorem witness_HaltedRouterTakesNoStep : let s : State := { strict with halted := true, inputs := [⟨0x900050000, 0⟩] }
    s.cfg.wf = true ∧ s.halted = true ∧ s.inputs = [⟨0x900050000, 0⟩] ∧ (⟨0x900050000, 0⟩ : Frame).format.toNat < 4 := by decide

theorem witness_EveryAccessIsAnswered : State.reset.halted = false ∧ ∀ ch b, Instr.romRd 0 .w8 ≠ .rxPush ch b :=
  ⟨rfl, fun _ _ h => Instr.noConfusion h⟩

theorem witness_ResetVectorIsFirstEightRomBytes : let c : Config := { Config.reference with
      romImage := [(0, 0x00), (1, 0x06), (2, 0x00), (3, 0x00), (4, 0x00), (5, 0x00), (6, 0x10), (7, 0x00)] }
    (State.resetWith c).cfg.wf = true ∧ (State.resetWith c).halted = false ∧ (State.resetWith c).rom = c.romImage := by decide

theorem witness_ResetEstablishesInvariant : Config.reference.wf = true := by decide

/-- The invariant holds of the state after reset with a frame presented, and the step answers a next state. -/
theorem witness_StepKeepsInvariant : let s : State := { State.reset with inputs := [⟨0x900030000, 0⟩] }
    s.Inv ∧ ∃ t, step s = .next t :=
  ⟨⟨by decide, ⟨rfl, rfl, rfl, rfl, rfl⟩, ⟨rfl, fun _ => rfl, by decide, by decide⟩, ⟨rfl, rfl, rfl, rfl, rfl, rfl⟩,
    ⟨rfl, rfl, rfl, rfl, rfl, rfl⟩, fun h => Bool.noConfusion h, fun _ h => absurd h List.not_mem_nil⟩, _, rfl⟩

theorem witness_RomNeverChanges : ∃ t, exec (.romWr 0 .w8 1) State.reset = .next t := ⟨_, rfl⟩

theorem witness_LogIsAppendOnly : ∃ t, exec (.tubeRd 0x030000) State.reset = .next t := ⟨_, rfl⟩

/-- An access that aborts, one that does not. -/
theorem witness_AbortOnlyOnStrictUnmappedAccess : isTransaction (.unmappedRd 0x060000 .w8) = true
    ∧ (∃ t, exec (.unmappedRd 0x060000 .w8) strict = .next t) ∧ isTransaction (.tubeRd 0x030000) = true
    ∧ ∃ t, exec (.tubeRd 0x030000) strict = .next t := ⟨rfl, ⟨_, rfl⟩, rfl, _, rfl⟩

/-- The last 32-bit access of RAM. -/
theorem witness_NarrowReadsAfterWideWrite : State.reset.cfg.wf = true ∧ State.reset.cfg.fits .ram 0x05FFFC .w32 = true
    ∧ ∃ t, exec (.ramWr 0x05FFFC .w32 7) State.reset = .next t := ⟨by decide, by decide, _, rfl⟩

theorem witness_WideWindowAccessIsWidthError : ∀ e ∈ [((0x01FFFF : Word), Region.duart), (0x020000, .rtc), (0x03FFFF, .tube),
    (0x040000, .vfd)], State.reset.halted = false ∧ State.reset.cfg.region e.1.toNat = some e.2 ∧ e.2 ≠ .rom ∧ e.2 ≠ .ram
    ∧ Width.w16 ≠ .w8 := by decide

/-- The hypotheses of the clauses that say which transactions an operation is, at boundary addresses. -/
theorem witness_decode_clauses : Config.reference.fits .rom 0x00FFFC .w32 = true ∧ Config.reference.fits .ram 0x05FFFC .w32 = true
    ∧ Config.reference.region 0x060000 = none ∧ Config.reference.region 0x03FFFF = some .tube
    ∧ Config.reference.region 0x04FFFF = some .vfd ∧ Config.reference.region 0x02FFFF = some .rtc
    ∧ Config.reference.addrOf 12 0x01000C = true ∧ (CmdWrite.mk 0x010002 .A 0x1F).cmd = 1
    ∧ (CmdWrite.mk 0x010002 .A 0x20).cmd = 2 ∧ (CmdWrite.mk 0x010002 .A 0x3C).cmd = 3
    ∧ (CmdWrite.mk 0x010002 .A 0x40).cmd = 4 ∧ (CmdWrite.mk 0x010002 .A 0x5F).cmd = 5 := by decide

/-! Statements whose one hypothesis is that the router is not halted; where strict mode matters, both configurations. -/

theorem witness_RomReadIsBigEndian : State.reset.halted = false := rfl
theorem witness_RamReadIsBigEndian : State.reset.halted = false := rfl
theorem witness_RamWriteStoresBigEndian : State.reset.halted = false := rfl
theorem witness_UnmappedAccessPolicy : State.reset.halted = false ∧ strict.halted = false := ⟨rfl, rfl⟩
theorem witness_RomWriteAndStraddlePolicy : State.reset.halted = false ∧ strict.halted = false := ⟨rfl, rfl⟩
theorem witness_BadWidthRowsLogAndProceed : State.reset.halted = false ∧ strict.halted = false := ⟨rfl, rfl⟩
theorem witness_SinkReadIsRejected : State.reset.halted = false := rfl
theorem witness_SinkWriteIsAccepted : State.reset.halted = false := rfl
theorem witness_UnimplementedDuartAccess : State.reset.halted = false ∧ strict.halted = false := ⟨rfl, rfl⟩
theorem witness_NormalReadReturnsNvram : State.reset.halted = false := rfl
theorem witness_StatusByteBits : State.reset.halted = false := rfl
theorem witness_ModeWriteSetsPointer : State.reset.halted = false := rfl
theorem witness_StubWritesChangeNothing : State.reset.halted = false := rfl
theorem witness_TimerBytesCompose : State.reset.halted = false := rfl
theorem witness_IrqVectorWrite : State.reset.halted = false := rfl
theorem witness_CommandWriteIsItsThreeRows : State.reset.halted = false := rfl
theorem witness_ResetCommands : State.reset.halted = false := rfl
theorem witness_BaudExtendCommands : State.reset.halted = false := rfl
theorem witness_UnimplementedCommandsOnlyLog : State.reset.halted = false := rfl
theorem witness_EnableFieldPatterns : State.reset.halted = false := rfl
theorem witness_ReservedPatternLeavesFlagFree : State.reset.halted = false := rfl

theorem witness_MagicSequenceBits : 0 < 64 ∧ 63 < 64 := by decide

/-- A mismatch, a hit below 63 at either end, and the hit at 63. -/
theorem witness_NormalWriteStoresAndDetects : State.reset.halted = false ∧ State.reset.magicSeqOffset ≤ 63
    ∧ (0x00 : Byte).getLsbD 0 ≠ (0x5CA33AC55CA33AC5#64).getLsbD 0
    ∧ (0x01 : Byte).getLsbD 0 = (0x5CA33AC55CA33AC5#64).getLsbD 0
    ∧ (0x01 : Byte).getLsbD 0 = (0x5CA33AC55CA33AC5#64).getLsbD 62
    ∧ (0x00 : Byte).getLsbD 0 = (0x5CA33AC55CA33AC5#64).getLsbD 63 := by decide

theorem witness_SerialReadReturnsZero : ∀ n ∈ [1, 2, 64], (serial n).halted = false ∧ 1 ≤ (serial n).bitsToShift := by decide

theorem witness_SerialWriteIsDiscarded : ∀ n ∈ [1, 2, 64], (serial n).halted = false ∧ 1 ≤ (serial n).bitsToShift := by decide

/-- The 64 bytes whose bits 0 are the 64 expected bits as 30_encoding.md R77 tabulates them. -/
def exactRun : List (Word × Byte) :=
  let c5 : List Byte := [1, 0, 1, 0, 0, 0, 1, 1]
  let x3a : List Byte := [0, 1, 0, 1, 1, 1, 0, 0]
  let a3 : List Byte := [1, 1, 0, 0, 0, 1, 0, 1]
  let x5c : List Byte := [0, 0, 1, 1, 1, 0, 1, 0]
  (c5 ++ x3a ++ a3 ++ x5c ++ c5 ++ x3a ++ a3 ++ x5c).map fun b => (0x020000, b)

/-- Both sides of the equivalence: a run with every bit as expected, and one that misses a bit. -/
theorem witness_MagicRunActivatesIffExact : State.reset.halted = false ∧ State.reset.activated = false
    ∧ State.reset.magicSeqOffset = 0
    ∧ (exactRun.length = 64
      ∧ ∀ (p : Nat) (h : p < exactRun.length), (exactRun[p]).2.getLsbD 0 = (0x5CA33AC55CA33AC5#64).getLsbD p)
    ∧ (let ones := List.replicate 64 ((0x020000, 0x01) : Word × Byte)
      ones.length = 64
      ∧ ¬ ∀ (p : Nat) (h : p < ones.length), (ones[p]).2.getLsbD 0 = (0x5CA33AC55CA33AC5#64).getLsbD p) := by decide

theorem witness_SerialModeLastsSixtyFourAccesses : (serial 64).halted = false ∧ (serial 64).activated = true
    ∧ (serial 64).bitsToShift = 64 ∧ (serial 64).magicSeqOffset = 0
    ∧ (List.replicate 64 ((0x020000, none) : Word × Option Byte)).length = 64 := by decide

theorem witness_SixWritesClearTheDetector : let s : State := { State.reset with magicSeqOffset := 63 }
    let ws : List (Word × Byte) := [(0x020000, 0x01), (0x020001, 0xFF), (0x020000, 0x00), (0x02FFFF, 0xFE), (0x020000, 0x00), (0x020000, 0x00)]
    s.halted = false ∧ s.activated = false ∧ s.magicSeqOffset ≤ 63
    ∧ (ws.map fun w => w.2.getLsbD 0) = [true, true, false, false, false, false] := by decide

theorem witness_DetectorIsUndisturbed : (∀ a d, Instr.rtcRdNormal 0x020000 ≠ .rtcWrNormal a d)
    ∧ (∀ a d, Instr.rtcRdNormal 0x020000 ≠ .rtcWrSerial a d) ∧ (∀ a, Instr.rtcRdNormal 0x020000 ≠ .rtcRdSerial a)
    ∧ ∃ t, exec (.rtcRdNormal 0x020000) State.reset = .next t :=
  ⟨fun _ _ h => Instr.noConfusion h, fun _ _ h => Instr.noConfusion h, fun _ h => Instr.noConfusion h, _, rfl⟩

theorem witness_StatusByteReachableValues : (queued [1, 2, 3, 4]).halted = false ∧ ((queued [1, 2, 3, 4]).chan .A).Inv :=
  ⟨rfl, ⟨rfl, rfl, rfl, rfl, rfl, rfl⟩⟩

/-- A queue that holds a byte and an empty one. -/
theorem witness_HoldingReadPopsTheQueue : (queued [0x41]).halted = false ∧ ((queued [0x41]).chan .A).rxFifo = [0x41]
    ∧ ((queued [0x41]).chan .B).rxFifo = [] := by decide

theorem witness_TransmitPassesThrough : State.reset.halted = false ∧ (State.reset.chan .B).txFifo = [] := by decide

/-- Reset-receiver with each transmitter field a clause speaks of. -/
theorem witness_ResetReceiverBeatsEnable : State.reset.halted = false
    ∧ ((0x21 : Byte).extractLsb' 4 4 = 2#4 ∧ (0x21 : Byte).extractLsb' 2 2 = 0#2)
    ∧ ((0x25 : Byte).extractLsb' 4 4 = 2#4 ∧ (0x25 : Byte).extractLsb' 2 2 = 1#2)
    ∧ ((0x2B : Byte).extractLsb' 4 4 = 2#4 ∧ (0x2B : Byte).extractLsb' 2 2 = 2#2) := by decide

theorem witness_ChannelsAreIndependent : channelOf (.thrWr 0x01000B .B 0x42) = some .B ∧ Channel.A ≠ .B
    ∧ ∃ t, exec (.thrWr 0x01000B .B 0x42) State.reset = .next t := ⟨rfl, by decide, _, rfl⟩

theorem witness_ReceiveQueueIsLossless : let run : List Instr := [.rxPush .A 0x41, .rhrRd 0x010003 .A, .rhrRd 0x01000B .B]
    run.all (fun i => !resetsReceiver .A i) = true ∧ ∃ t, execAll run State.reset = .next t := ⟨by decide, _, rfl⟩

/-- Each of the four reads answers. -/
theorem witness_IdempotentReads : ∀ i ∈ [Instr.romRd 0 .w8, .ramRd 0x050000 .w8, .rtcRdNormal 0x020000, .srRd 0x010001 .A],
    ∃ t, exec i State.reset = .next t := by
  intro i hi
  simp only [List.mem_cons, List.not_mem_nil, or_false] at hi
  rcases hi with rfl | rfl | rfl | rfl <;> exact ⟨_, rfl⟩

theorem witness_reset_memory_wf : State.reset.ram.wf none = true ∧ State.reset.nvram.wf (some 0) = true
    ∧ State.reset.rom.wf none = true := by decide

end Sys2Proof.Tests
end

section
/-! PROOFS. The load-time part of the state, ROM and configuration (10_state.md R12, R14): each shared operation keeps it,
hence every operation does. -/

namespace Sys2Proof.Machine

/-- What only loading and reset set: ROM (10_state.md R12) and the configuration (R14). -/
def State.loaded (s : State) : Memory × Config := (s.rom, s.cfg)

theorem State.loaded_eq_iff {s t : State} : t.loaded = s.loaded ↔ t.rom = s.rom ∧ t.cfg = s.cfg := Prod.mk_inj

/-! ## The shared operations -/

@[simp] theorem State.reply_loaded (s : State) (g : Signal) (v : Word) : (s.reply g v).loaded = s.loaded := rfl

@[simp] theorem State.log_loaded (s : State) (k : ErrorKind) (t : Access) : (s.log k t).loaded = s.loaded := rfl

@[simp] theorem State.setNvramByte_loaded (s : State) (i : Nat) (v : Byte) : (s.setNvramByte i v).loaded = s.loaded := rfl

@[simp] theorem State.setRamBytes_loaded (s : State) (off : Nat) (bs : List Byte) :
    (s.setRamBytes off bs).loaded = s.loaded := by simp [State.loaded]

@[simp] theorem State.onChan_loaded (s : State) (ch : Channel) (g : DuartChannel → DuartChannel) :
    (s.onChan ch g).loaded = s.loaded := by simp [State.loaded]

@[simp] theorem State.unhandled_loaded (s : State) (k : ErrorKind) (t : Access) : (s.unhandled k t).loaded = s.loaded := by
  obtain ⟨_, _, h, -, -⟩ := s.unhandled_eq k t
  rw [h]; rfl

@[simp] theorem State.busError_loaded (s : State) (k : BusErrorKind) (t : Access) : (s.busError k t).loaded = s.loaded := by
  simp [State.busError_eq]

@[simp] theorem State.detect_loaded (s : State) (t : Access) (bit : Bool) : (s.detect t bit).loaded = s.loaded := by
  obtain ⟨_, _, _, _, h, -⟩ := s.detect_eq t bit
  rw [h]; rfl

@[simp] theorem State.serialCycle_loaded (s : State) (t : Access) : (s.serialCycle t).loaded = s.loaded := by
  obtain ⟨_, _, _, h, -⟩ := s.serialCycle_eq t
  rw [h]; rfl

/-! ## The command byte -/

@[simp] theorem State.applyTxc_loaded (s : State) (c : CmdWrite) : (s.applyTxc c).loaded = s.loaded := by
  obtain ⟨_, _, h⟩ := s.applyTxc_eq c
  rw [h]; exact s.onChan_loaded ..

@[simp] theorem State.applyRxc_loaded (s : State) (c : CmdWrite) : (s.applyRxc c).loaded = s.loaded := by
  obtain ⟨_, _, h⟩ := s.applyRxc_eq c
  rw [h]; exact s.onChan_loaded ..

@[simp] theorem State.applyCmd_loaded (s : State) (c : CmdWrite) : (s.applyCmd c).loaded = s.loaded := by
  obtain ⟨_, _, h, -⟩ := s.applyCmd_eq c
  rw [h]; exact s.onChan_loaded ..

@[simp] theorem State.command_loaded (s : State) (c : CmdWrite) : (s.command c).loaded = s.loaded := by
  simp [State.command]

/-! ## Every operation -/

/-- A transaction keeps the load-time part when what it does to the state keeps it. -/
theorem State.loaded_of_transact {s t : State} {f : State → State} (h : s.transact f = .next t)
    (hf : (f s).loaded = s.loaded) : t.loaded = s.loaded := by
  obtain ⟨-, rfl⟩ := State.transact_next.1 h
  exact hf

/-- No operation changes ROM or the configuration: one case per shared operation a meaning is made of. A reader's push is
the only operation that is no transaction. -/
theorem exec_loaded {i : Instr} {s t : State} (h : exec i s = .next t) : t.loaded = s.loaded := by
  cases i with
  -- an access refused by the router or by a peripheral
  | romStraddle | ramStraddle | romWr | unmappedRd | unmappedWr =>
    simp only [exec_romStraddle, exec_ramStraddle, exec_romWr, exec_unmappedRd, exec_unmappedWr] at h
    exact State.loaded_of_transact h (s.unhandled_loaded ..)
  | rtcBadwidth | duartBadwidth | duartUnimplRd | duartUnimplWr | tubeBadwidth | tubeRd | vfdBadwidth | vfdRd =>
    simp only [exec_rtcBadwidth, exec_duartBadwidth, exec_duartUnimplRd, exec_duartUnimplWr, exec_tubeBadwidth,
      exec_tubeRd, exec_vfdBadwidth, exec_vfdRd] at h
    exact State.loaded_of_transact h (s.busError_loaded ..)
  -- an answer alone, or with one of the DUART's two global registers or a log entry
  | romRd | ramRd | rtcRdNormal | srRd | csrWr | acrWr | imrWr | opcrWr | oprSetWr | oprClrWr | tubeWr | vfdWr
  | cmdNop | txcNochange | rxcNochange =>
    simp only [exec_romRd, exec_ramRd, exec_rtcRdNormal, exec_srRd, exec_csrWr, exec_acrWr, exec_imrWr, exec_opcrWr,
      exec_oprSetWr, exec_oprClrWr, exec_tubeWr, exec_vfdWr, exec_cmdNop, exec_txcNochange, exec_rxcNochange] at h
    exact State.loaded_of_transact h rfl
  | cturWr | ctlrWr | ivrWr | cmdStartBreak | cmdStopBreak | cmdStandby | cmdActive | cmdRsvdE | cmdRsvdF =>
    simp only [exec_cturWr, exec_ctlrWr, exec_ivrWr, exec_cmdStartBreak, exec_cmdStopBreak, exec_cmdStandby,
      exec_cmdActive, exec_cmdRsvdE, exec_cmdRsvdF] at h
    exact State.loaded_of_transact h rfl
  -- RAM and the DS1244
  | ramWr =>
    simp only [exec_ramWr] at h
    exact State.loaded_of_transact h (s.setRamBytes_loaded ..)
  | rtcWrNormal =>
    simp only [exec_rtcWrNormal] at h
    exact State.loaded_of_transact h ((State.detect_loaded ..).trans (s.setNvramByte_loaded ..))
  | rtcWrSerial | rtcRdSerial =>
    simp only [exec_rtcWrSerial, exec_rtcRdSerial] at h
    exact State.loaded_of_transact h (s.serialCycle_loaded ..)
  -- one channel of the DUART
  | mrWr | thrWr | cmdResetMrp | cmdResetRx | cmdResetTx | cmdResetErr | cmdResetBrkirq | cmdSetRxbrg | cmdClrRxbrg
  | cmdSetTxbrg | cmdClrTxbrg | txcEnable | txcDisable | rxcEnable | rxcDisable =>
    simp only [exec_mrWr, exec_thrWr, exec_cmdResetMrp, exec_cmdResetRx, exec_cmdResetTx, exec_cmdResetErr,
      exec_cmdResetBrkirq, exec_cmdSetRxbrg, exec_cmdClrRxbrg, exec_cmdSetTxbrg, exec_cmdClrTxbrg, exec_txcEnable,
      exec_txcDisable, exec_rxcEnable, exec_rxcDisable] at h
    exact State.loaded_of_transact h (s.onChan_loaded ..)
  | txcReserved | rxcReserved =>
    simp only [exec_txcReserved, exec_rxcReserved] at h
    exact State.loaded_of_transact h (s.drawEnable.2.onChan_loaded ..)
  | crWr =>
    simp only [exec_crWr] at h
    exact State.loaded_of_transact h (s.command_loaded _)
  | rhrRd =>
    simp only [exec_rhrRd] at h
    refine State.loaded_of_transact h ?_
    split
    · exact s.onChan_loaded ..
    · rfl
  | rxPush => cases h; exact s.onChan_loaded ..

/-- Settles O19: every operation keeps the load-time part, of which ROM is set to its image by reset. -/
theorem romNeverChanges : Obligations.RomNeverChanges :=
  ⟨fun _ _ _ h => State.loaded_eq_iff.1 (exec_loaded h), fun _ => rfl⟩

end Sys2Proof.Machine
end

section
/-! PROOFS. How an address decodes (30_encoding.md R74): region select by range in a legal configuration, and the halves
A[31:16] and A[15:0] where a region is exactly 64KB. -/

namespace Sys2Proof

/-! ## What a legal configuration gives the map -/

theorem mem_allRegions (r : Region) : r ∈ allRegions := by cases r <;> decide

/-- 00_scope.md R6 (b) and (c) of a legal configuration, region by region. -/
theorem Config.disjoint_and_aligned_of_wf {c : Config} (h : c.wf = true) :
    (∀ r q : Region, r ≠ q → c.disjoint r q = true)
    ∧ ∀ r : Region, c.base r % 0x10000 = 0 ∧ c.size r % 0x10000 = 0 := by
  simp only [Config.wf, Bool.and_eq_true, List.all_eq_true, Bool.or_eq_true, decide_eq_true_eq] at h
  obtain ⟨⟨⟨⟨⟨⟨⟨⟨-, hdisj⟩, halign⟩, -⟩, -⟩, -⟩, -⟩, -⟩, -⟩ := h
  exact ⟨fun r q hne => (hdisj r (mem_allRegions r) q (mem_allRegions q)).resolve_left hne,
    fun r => halign r (mem_allRegions r)⟩

/-! ## Region select -/

/-- An address that lies in a region resolves to some region, whatever the configuration. -/
theorem Config.region_ne_none {c : Config} {a : Nat} {r : Region} (h : c.inRegion r a = true) : c.region a ≠ none := by
  unfold Config.region
  split
  · exact Option.some_ne_none _
  · split
    · exact Option.some_ne_none _
    · intro hnone
      have hwin : ∀ q ∈ windowTable, ¬ c.inRegion q a = true := List.find?_eq_none.1 hnone
      cases r with
      | rom | ram => contradiction
      | duart | rtc | tube | vfd => exact hwin _ (by decide) h

/-- An address resolves to nothing exactly when it lies in no region. -/
theorem Config.region_eq_none_iff {c : Config} {a : Nat} :
    c.region a = none ↔ ∀ r : Region, ¬ (c.base r ≤ a ∧ a < c.base r + c.size r) := by
  constructor
  · exact fun h r hr => Config.region_ne_none (Config.inRegion_iff.2 hr) h
  · exact fun h => Option.eq_none_iff_forall_ne_some.2 fun r hr => h r (Config.region_some hr)

/-- In a legal configuration an address resolves to each region it lies in: the ranges are disjoint. -/
theorem Config.region_eq_some_iff {c : Config} (hc : c.wf = true) {a : Nat} {r : Region} :
    c.region a = some r ↔ c.base r ≤ a ∧ a < c.base r + c.size r := by
  refine ⟨Config.region_some, fun hr => ?_⟩
  obtain ⟨q, hq⟩ := Option.ne_none_iff_exists'.1 (Config.region_ne_none (Config.inRegion_iff.2 hr))
  obtain ⟨hlo, hhi⟩ := Config.region_some hq
  by_cases hqr : q = r
  · rw [hq, hqr]
  · exact absurd ⟨hlo, hhi, hr⟩
      (Config.disjoint_iff.1 ((Config.disjoint_and_aligned_of_wf hc).1 q r hqr) a)

/-! ## The halves of an address -/

theorem Word.high_half (a : Word) : (a.extractLsb' 16 16).toNat = a.toNat / 0x10000 := by
  have ha : a.toNat < 2 ^ 32 := a.isLt
  rw [BitVec.extractLsb'_toNat, Nat.shiftRight_eq_div_pow]
  omega

theorem Word.low_half (a : Word) : (a.extractLsb' 0 16).toNat = a.toNat % 0x10000 := by
  rw [BitVec.extractLsb'_toNat, Nat.shiftRight_zero]

section
variable {c : Config} (hc : c.wf = true) {r : Region} (hsize : c.size r = 0x10000) (a : Word)
include hc hsize

/-- A region of exactly 64KB is selected by A[31:16], since its base is a multiple of 64KB. -/
theorem Config.region_eq_some_iff_high_half :
    c.region a.toNat = some r ↔ (a.extractLsb' 16 16).toNat = c.base r / 0x10000 := by
  obtain ⟨hbase, -⟩ := (Config.disjoint_and_aligned_of_wf hc).2 r
  rw [Config.region_eq_some_iff hc, Word.high_half, hsize]
  omega

/-- The offset in a region of exactly 64KB is A[15:0]. -/
theorem Config.offset_eq_low_half (h : c.region a.toNat = some r) :
    c.offset r a = (a.extractLsb' 0 16).toNat := by
  obtain ⟨hbase, -⟩ := (Config.disjoint_and_aligned_of_wf hc).2 r
  obtain ⟨hlo, hhi⟩ := (Config.region_eq_some_iff hc).1 h
  rw [hsize] at hhi
  rw [Word.low_half, Config.offset]
  omega

end

theorem Config.size_window (c : Config) {r : Region} (hrom : r ≠ .rom) (hram : r ≠ .ram) : c.size r = 0x10000 := by
  cases r with
  | rom | ram => contradiction
  | duart | rtc | tube | vfd => rfl

/-! ## The reference configuration -/

theorem Config.reference_wf : Config.reference.wf = true := by decide

theorem Config.reference_size (r : Region) : Config.reference.size r = 0x10000 := by cases r <;> rfl

/-- In the reference configuration RAM and ROM are 64KB as well, so A[31:16] selects every region. -/
theorem Config.reference_region_iff (a : Word) (r : Region) : Config.reference.region a.toNat = some r ↔
    (a.extractLsb' 16 16).toNat = Config.reference.base r / 0x10000 :=
  Config.region_eq_some_iff_high_half Config.reference_wf (Config.reference_size r) a

/-- An A[31:16] that is no region's selects nothing. -/
theorem Config.reference_region_eq_none {a : Word}
    (h : ∀ r, (a.extractLsb' 16 16).toNat ≠ Config.reference.base r / 0x10000) :
    Config.reference.region a.toNat = none :=
  Option.eq_none_iff_forall_ne_some.2 fun r hr => h r ((Config.reference_region_iff a r).1 hr)

/-! ## The three steps together -/

/-- A transaction's address is the presented address under the mask (R74 step 1). -/
theorem Frame.access_addr {c : Config} {f : Frame} {t : Access} (h : f.access c = some t) : t.addr = c.mask f.address := by
  unfold Frame.access at h
  obtain ⟨w, -, rfl⟩ := Option.map_eq_some_iff.1 h
  rfl

/-- Settles O11: the three steps of R74, with every 64KB region read from the two halves of the address. -/
theorem addressDecodesByRange : Obligations.AddressDecodesByRange := by
  refine ⟨fun _ _ _ => Frame.access_addr, fun c hc a => ⟨fun r => Config.region_eq_some_iff hc,
    Config.region_eq_none_iff, fun r => rfl, fun r hrom hram => ?_⟩, fun a => ⟨?_, fun r => ?_⟩⟩
  · have hsize := c.size_window hrom hram
    exact ⟨Config.region_eq_some_iff_high_half hc hsize a, Config.offset_eq_low_half hc hsize a⟩
  · split
    case h_1 h => exact (Config.reference_region_iff a .rom).2 h
    case h_2 h => exact (Config.reference_region_iff a .duart).2 h
    case h_3 h => exact (Config.reference_region_iff a .rtc).2 h
    case h_4 h => exact (Config.reference_region_iff a .tube).2 h
    case h_5 h => exact (Config.reference_region_iff a .vfd).2 h
    case h_6 h => exact (Config.reference_region_iff a .ram).2 h
    case h_7 h0 h1 h2 h3 h4 h5 =>
      refine Config.reference_region_eq_none fun r => ?_
      cases r with
      | rom => exact h0
      | duart => exact h1
      | rtc => exact h2
      | tube => exact h3
      | vfd => exact h4
      | ram => exact h5
  · exact Config.offset_eq_low_half Config.reference_wf (Config.reference_size r) a

end Sys2Proof
end

section
/-! PROOFS. The router's own operations (40_bus_router.md): which accesses they are (R100), the bytes a RAM write leaves
(R104), and the answer to an address of no region (R106, R107). -/

namespace Sys2Proof

/-! ## Which accesses they are -/

/-- What the dispatch asks of an access that fits in a region. -/
theorem Config.region_and_not_straddles_of_fits {c : Config} {r : Region} {a : Word} {w : Width} (h : c.fits r a w = true) :
    c.region a.toNat = some r ∧ c.straddles r a w = false := by
  obtain ⟨hin, hstr⟩ := Config.fits_iff.1 h
  exact ⟨(Config.addrIn_iff.1 hin).2, hstr⟩

theorem decodeBus_romRd {c : Config} {a : Word} {w : Width} (h : c.fits .rom a w = true) (m : Bool) :
    decodeBus c m ⟨a, w, .read⟩ = .romRd a w := by
  obtain ⟨hreg, hstr⟩ := Config.region_and_not_straddles_of_fits h
  simp [decodeBus, hreg, hstr]

theorem decodeBus_ramRd {c : Config} {a : Word} {w : Width} (h : c.fits .ram a w = true) (m : Bool) :
    decodeBus c m ⟨a, w, .read⟩ = .ramRd a w := by
  obtain ⟨hreg, hstr⟩ := Config.region_and_not_straddles_of_fits h
  simp [decodeBus, hreg, hstr]

theorem decodeBus_ramWr {c : Config} {a : Word} {w : Width} (h : c.fits .ram a w = true) (m : Bool) (d : Word) :
    decodeBus c m ⟨a, w, .write d⟩ = .ramWr a w d := by
  obtain ⟨hreg, hstr⟩ := Config.region_and_not_straddles_of_fits h
  simp [decodeBus, hreg, hstr]

theorem decodeBus_unmappedRd {c : Config} {a : Word} (h : c.region a.toNat = none) (m : Bool) (w : Width) :
    decodeBus c m ⟨a, w, .read⟩ = .unmappedRd a w := by simp [decodeBus, h]

theorem decodeBus_unmappedWr {c : Config} {a : Word} (h : c.region a.toNat = none) (m : Bool) (w : Width) (d : Word) :
    decodeBus c m ⟨a, w, .write d⟩ = .unmappedWr a w d := by simp [decodeBus, h]

end Sys2Proof

namespace Sys2Proof.Machine

/-! ## Reads -/

section
variable {s : State} (h : s.halted = false) (a : Word) (w : Width)
include h

/-- A ROM read of any width: the bytes from the offset on, and only the answer changes. -/
theorem exec_romRd_of_running : exec (.romRd a w) s =
    .next { s with answer := some ⟨.proceed, memRead s.romByte (a.toNat - s.cfg.romBase) w⟩ } := by
  rw [exec_romRd, State.transact_of_running h]; rfl

/-- A RAM read of any width: the bytes from the offset on, and only the answer changes. -/
theorem exec_ramRd_of_running : exec (.ramRd a w) s =
    .next { s with answer := some ⟨.proceed, memRead s.ramByte (a.toNat - s.cfg.ramBase) w⟩ } := by
  rw [exec_ramRd, State.transact_of_running h]; rfl

end

/-- Settles O22: each width is one equation of `memRead` over the ROM bytes. -/
theorem romReadIsBigEndian : Obligations.RomReadIsBigEndian := fun _ a h =>
  ⟨exec_romRd_of_running h a .w8, exec_romRd_of_running h a .w16, exec_romRd_of_running h a .w32,
    fun m _ hfit => decodeBus_romRd hfit m⟩

/-- Settles O23: each width is one equation of `memRead` over the RAM bytes. -/
theorem ramReadIsBigEndian : Obligations.RamReadIsBigEndian := fun _ a h =>
  ⟨exec_ramRd_of_running h a .w8, exec_ramRd_of_running h a .w16, exec_ramRd_of_running h a .w32,
    fun m _ hfit => decodeBus_ramRd hfit m⟩

/-! ## A RAM write -/

@[simp] theorem State.reply_ramByte (s : State) (g : Signal) (v : Word) (x : Nat) :
    (s.reply g v).ramByte x = s.ramByte x := rfl

/-- `MemWrite` puts byte `k` of the value at `off + k` (00_scope.md R8). -/
theorem State.ramByte_setRamBytes_beBytes (s : State) (off : Nat) (v : Word) {w : Width} {k : Nat} (hk : k < w.bytes) :
    (s.setRamBytes off (beBytes w v)).ramByte (off + k) = beByte w v k := by
  have hlen : k < (beBytes w v).length := by rwa [beBytes_length]
  rw [State.ramByte_setRamBytes, if_pos (Nat.le_add_right off k), Nat.add_sub_cancel_left,
    List.getElem?_eq_getElem hlen, beBytes_getElem, Option.getD_some]

/-- Storing bytes leaves every byte outside their range as before. -/
theorem State.ramByte_setRamBytes_of_outside (s : State) (bs : List Byte) {off x : Nat}
    (hx : x < off ∨ off + bs.length ≤ x) : (s.setRamBytes off bs).ramByte x = s.ramByte x := by
  rw [State.ramByte_setRamBytes]
  rcases hx with hbelow | habove
  · rw [if_neg (Nat.not_le.2 hbelow)]
  · have hend : bs.length ≤ x - off := by omega
    rw [if_pos (by omega), List.getElem?_eq_none hend, Option.getD_none]

/-- Settles O24: the next state is `MemWrite` and an answer; its bytes are read inside and outside the stored range. -/
theorem ramWriteStoresBigEndian : Obligations.RamWriteStoresBigEndian := by
  refine fun s a w d h => ⟨fun m hfit => decodeBus_ramWr hfit m d,
    (s.setRamBytes (a.toNat - s.cfg.ramBase) (beBytes w d)).reply .proceed 0, ?_, ?_, fun k hk => ?_, fun x hx => ?_⟩
  · rw [exec_ramWr, State.transact_of_running h]; rfl
  · rw [State.setRamBytes_eq]; rfl
  · rw [State.reply_ramByte, State.ramByte_setRamBytes_beBytes s _ d hk, beByte]
  · rw [State.reply_ramByte]
    exact State.ramByte_setRamBytes_of_outside s _ (by rwa [beBytes_length])

/-! ## An address of no region -/

/-- The recovery path for an UnmappedAddressError on a running router, in both settings of STRICT (60_exceptions.md R226,
R228). -/
theorem State.unhandled_unmappedAddress {s : State} (h : s.halted = false) (t : Access) :
    s.unhandled .unmappedAddress t = { s with
      diag := s.diag ++ [⟨.unmappedAddress, t.isRead, t.addr, t.width, t.loggedData⟩], halted := s.cfg.strict,
      answer := some ⟨if s.cfg.strict then .abort else .proceed, 0⟩ } := by
  obtain ⟨_, _, heq, hhalt, hsig⟩ := s.unhandled_eq .unmappedAddress t
  rw [heq, hhalt, hsig, h]
  simp

/-- Settles O26: both directions take the one recovery path, each with its own log entry. -/
theorem unmappedAccessPolicy : Obligations.UnmappedAccessPolicy := by
  refine fun s a w d h => ⟨?_, ?_, fun hnone m => ⟨decodeBus_unmappedRd hnone m w, decodeBus_unmappedWr hnone m w d⟩⟩
  · rw [exec_unmappedRd, State.transact_of_running h, State.unhandled_unmappedAddress h]; rfl
  · rw [exec_unmappedWr, State.transact_of_running h, State.unhandled_unmappedAddress h]; rfl

end Sys2Proof.Machine
end

section
/-! PROOFS. The DS1244's Serial mode (41_ds1244.md R134, R135): what one cycle does, which is the same for a read and a
write, and which access a Serial-mode read is (R136). -/

namespace Sys2Proof

/-- Every 8-bit read of the window in Serial mode is the Serial-mode read. -/
theorem decodeBus_rtcRdSerial {c : Config} {a : Word} (h : c.region a.toNat = some .rtc) :
    decodeBus c true (.read8 a) = .rtcRdSerial a := by
  simp [decodeBus, decodeRtc, Access.read8, h]

end Sys2Proof

namespace Sys2Proof.Machine

/-- A cycle with more than one left uses up one. -/
theorem State.serialCycle_of_one_lt {s : State} (h : 1 < s.bitsToShift) (t : Access) :
    s.serialCycle t = { s with bitsToShift := s.bitsToShift - 1 } :=
  if_neg (Nat.sub_ne_zero_of_lt h)

/-- The last cycle returns the device to Normal mode and logs it. -/
theorem State.serialCycle_of_eq_one {s : State} (h : s.bitsToShift = 1) (t : Access) :
    s.serialCycle t = ({ s with bitsToShift := 0, activated := false }).log .rtcCompleted t :=
  if_pos (Nat.sub_eq_zero_of_le h.le)

/-- Settles O36: a Serial-mode read is one cycle answered with 0, by whether that cycle is the last. -/
theorem serialReadReturnsZero : Obligations.SerialReadReturnsZero := by
  refine fun s a hrun hleft => ⟨fun hmore => ?_, fun hlast => ?_, decodeBus_rtcRdSerial⟩
  · have hlt : 1 < s.bitsToShift := lt_of_le_of_ne hleft hmore.symm
    rw [exec_rtcRdSerial, State.transact_of_running hrun, State.serialCycle_of_one_lt hlt]; rfl
  · refine ⟨⟨.rtcCompleted, true, a, .w8, 0⟩, rfl, rfl, ?_⟩
    rw [exec_rtcRdSerial, State.transact_of_running hrun, State.serialCycle_of_eq_one hlast]; rfl

end Sys2Proof.Machine
end

section
/-! PROOFS. The shared IRQ-vector byte of the DUART (42_duart.md R190): its write, and which access that is (R150). -/

namespace Sys2Proof

/-- An 8-bit write at register index 12, in either mode of the DS1244, is the write of the IRQ-vector byte. -/
theorem decodeBus_ivrWr {c : Config} {a : Word} (h : c.addrOf 12 a = true) (m : Bool) (d : Byte) :
    decodeBus c m (.write8 a d) = .ivrWr a d :=
  decodeBus_write8 h m d

end Sys2Proof

namespace Sys2Proof.Machine

/-- The IRQ-vector byte takes the written byte, and besides the answer nothing else changes. -/
theorem exec_ivrWr_of_running {s : State} (h : s.halted = false) (a : Word) (d : Byte) :
    exec (.ivrWr a d) s = .next { s with irqVector := d, answer := some ⟨.proceed, 0⟩ } := by
  rw [exec_ivrWr a, State.transact_of_running h]; rfl

/-- Settles O49: one equation of the write, and the dispatch row of register index 12. -/
theorem irqVectorWrite : Obligations.IrqVectorWrite := fun _ a d h =>
  ⟨exec_ivrWr_of_running h a d, fun hidx m => decodeBus_ivrWr hidx m d⟩

end Sys2Proof.Machine
end

section
/-! PROOFS. The tube and VFD sinks (43_sinks.md): which accesses their 8-bit rows are (R216), the error of a read (R211,
R214) and the discarding of a write (R210, R213). -/

namespace Sys2Proof

/-! ## Which accesses they are -/

section
variable {c : Config} {a : Word} (m : Bool) (d : Byte)

theorem decodeBus_tubeRd (h : c.region a.toNat = some .tube) : decodeBus c m (.read8 a) = .tubeRd a := by
  simp [decodeBus, decodeTube, Access.read8, h]

theorem decodeBus_vfdRd (h : c.region a.toNat = some .vfd) : decodeBus c m (.read8 a) = .vfdRd a := by
  simp [decodeBus, decodeVfd, Access.read8, h]

theorem decodeBus_tubeWr (h : c.region a.toNat = some .tube) : decodeBus c m (.write8 a d) = .tubeWr a d := by
  simp [decodeBus, decodeTube, Access.write8, h]

theorem decodeBus_vfdWr (h : c.region a.toNat = some .vfd) : decodeBus c m (.write8 a d) = .vfdWr a d := by
  simp [decodeBus, decodeVfd, Access.write8, h]

end

end Sys2Proof

namespace Sys2Proof.Machine

/-- An 8-bit read that a running router rejects as unsupported: one entry with the read's address, the answer, and no
other change, since a peripheral's error never halts. -/
theorem State.transact_unsupported_read8 {s : State} (h : s.halted = false) (a : Word) :
    (s.transact fun s => s.busError .unsupported (.read8 a)) =
      .next { s with diag := s.diag ++ [⟨.busUnsupported, true, a, .w8, 0⟩], answer := some ⟨.proceed, 0⟩ } := by
  rw [State.transact_of_running h, State.busError_eq]; rfl

/-- Settles O30: both windows reject the read by the same transaction; the rest is the dispatch. -/
theorem sinkReadIsRejected : Obligations.SinkReadIsRejected := fun s a h =>
  ⟨(exec_tubeRd a s).trans (State.transact_unsupported_read8 h a),
    (exec_vfdRd a s).trans (State.transact_unsupported_read8 h a),
    fun htube m => decodeBus_tubeRd m htube, fun hvfd m => decodeBus_vfdRd m hvfd⟩

/-- Settles O31: both windows run a transaction that only answers; the rest is the dispatch. -/
theorem sinkWriteIsAccepted : Obligations.SinkWriteIsAccepted := fun s a d h =>
  ⟨(exec_tubeWr a d s).trans (State.transact_of_running h _), (exec_vfdWr a d s).trans (State.transact_of_running h _),
    fun htube m => decodeBus_tubeWr m d htube, fun hvfd m => decodeBus_vfdWr m d hvfd⟩

end Sys2Proof.Machine
end

section
/-! PROOFS. The width error of the four windows (60_exceptions.md R221): which row a 16-bit or 32-bit access selects (R150,
R136, R216), and the one transaction those rows run. -/

namespace Sys2Proof

/-! ## Which accesses they are -/

section
variable {c : Config} {t : Access} (hwide : t.width ≠ .w8) (m : Bool)
include hwide

theorem decodeBus_duartBadwidth (h : c.region t.addr.toNat = some .duart) : decodeBus c m t = .duartBadwidth t := by
  simp [decodeBus, decodeDuart, h, hwide]

theorem decodeBus_rtcBadwidth (h : c.region t.addr.toNat = some .rtc) : decodeBus c m t = .rtcBadwidth t := by
  simp [decodeBus, decodeRtc, h, hwide]

theorem decodeBus_tubeBadwidth (h : c.region t.addr.toNat = some .tube) : decodeBus c m t = .tubeBadwidth t := by
  simp [decodeBus, decodeTube, h, hwide]

theorem decodeBus_vfdBadwidth (h : c.region t.addr.toNat = some .vfd) : decodeBus c m t = .vfdBadwidth t := by
  simp [decodeBus, decodeVfd, h, hwide]

end

end Sys2Proof

namespace Sys2Proof.Machine

/-- An access that a running router rejects for its width: one entry with the access itself, the answer, and no other
change, since a peripheral's error never halts. -/
theorem State.transact_width {s : State} (h : s.halted = false) (t : Access) :
    (s.transact fun s => s.busError .width t) = .next { s with
      diag := s.diag ++ [⟨.busWidth, t.isRead, t.addr, t.width, t.loggedData⟩], answer := some ⟨.proceed, 0⟩ } := by
  rw [State.transact_of_running h, State.busError_eq]; rfl

/-- Settles O28: by the window, each of which selects its bad-width row, and the four rows run the same transaction. -/
theorem wideWindowAccessIsWidthError : Obligations.WideWindowAccessIsWidthError := by
  intro s m t r hrun hreg hrom hram hwide
  rw [← State.transact_width hrun t]
  cases r with
  | rom | ram => contradiction
  | duart => rw [decodeBus_duartBadwidth hwide m hreg, exec_duartBadwidth]
  | rtc => rw [decodeBus_rtcBadwidth hwide m hreg, exec_rtcBadwidth]
  | tube => rw [decodeBus_tubeBadwidth hwide m hreg, exec_tubeBadwidth]
  | vfd => rw [decodeBus_vfdBadwidth hwide m hreg, exec_vfdBadwidth]

end Sys2Proof.Machine
end

section
/-! PROOFS. What an operation can do, said once: five kinds of effect, of which the last is bounded in all it leaves of the
DUART and the log. What every operation keeps is read off these five. -/

namespace Sys2Proof.Machine

/-! ## Effects on the DUART and the log -/

/-- From `s` to `u` operation `i` changes at most the DUART and the log, which gains at most `n` entries and never a
ResourceError (60_exceptions.md R227). It keeps R197 and R198 on both channels, and the receive queue of every channel
that it neither reads nor resets. -/
structure DuartEffect (i : Instr) (n : Nat) (s u : State) : Prop where
  frame : u = { s with
    chA := u.chA, chB := u.chB, timerPeriod := u.timerPeriod, irqVector := u.irqVector, diag := u.diag,
    freeIdx := u.freeIdx }
  entries : ∃ es, u.diag = s.diag ++ es ∧ es.length ≤ n ∧ ∀ e ∈ es, e.kind ≠ .resourceError
  chan_inv : ∀ o, (s.chan o).Inv → (u.chan o).Inv
  queue : ∀ o, resetsReceiver o i = false → holdingRead o i = false → (u.chan o).rxFifo = (s.chan o).rxFifo

namespace DuartEffect

variable {i : Instr} {n m : Nat} {s u v : State}

theorem refl (i : Instr) (n : Nat) (s : State) : DuartEffect i n s s :=
  ⟨rfl, ⟨[], by simp⟩, fun _ h => h, fun _ _ _ => rfl⟩

theorem trans (h : DuartEffect i m s u) (k : DuartEffect i n u v) : DuartEffect i (m + n) s v := by
  obtain ⟨es, he, hlen, hkind⟩ := h.entries
  obtain ⟨fs, hf, hlen', hkind'⟩ := k.entries
  refine ⟨k.frame.trans (by rw [h.frame]), ⟨es ++ fs, by rw [hf, he, List.append_assoc], ?_, ?_⟩,
    fun o ho => k.chan_inv o (h.chan_inv o ho), fun o hr hh => (k.queue o hr hh).trans (h.queue o hr hh)⟩
  · rw [List.length_append]; omega
  · exact fun e hmem => (List.mem_append.1 hmem).elim (hkind e) (hkind' e)

/-- One entry of any kind but ResourceError. -/
theorem log {k : ErrorKind} (hk : k ≠ .resourceError) (t : Access) : DuartEffect i 1 s (s.log k t) :=
  ⟨rfl, ⟨_, s.log_diag k t, le_refl 1, fun _ he => List.mem_singleton.1 he ▸ hk⟩,
    fun o h => (s.chan_log k t o).symm ▸ h, fun o _ _ => by rw [State.chan_log]⟩

/-- An update of one channel that keeps its invariant, and its receive queue unless the operation reads or resets it. -/
theorem onChan {ch : Channel} {g : DuartChannel → DuartChannel} (hinv : ∀ c : DuartChannel, c.Inv → (g c).Inv)
    (hq : resetsReceiver ch i = false → holdingRead ch i = false → ∀ c, (g c).rxFifo = c.rxFifo) :
    DuartEffect i n s (s.onChan ch g) := by
  refine ⟨by cases ch <;> rfl, ⟨[], by simp⟩, fun o ho => ?_, fun o hr hh => ?_⟩
  · rw [State.chan_onChan_eq]
    split
    · exact hinv _ ho
    · exact ho
  · rw [State.chan_onChan_eq]
    split
    next heq => subst heq; exact hq hr hh _
    next => rfl

/-- The two registers that both channels share. -/
theorem registers (p : BitVec 16) (q : BitVec 8) : DuartEffect i n s { s with timerPeriod := p, irqVector := q } :=
  ⟨rfl, ⟨[], by simp⟩, fun o h => by cases o <;> exact h, fun o _ _ => by cases o <;> rfl⟩

theorem freeIdx (k : Nat) : DuartEffect i n s { s with freeIdx := k } :=
  ⟨rfl, ⟨[], by simp⟩, fun o h => by cases o <;> exact h, fun o _ _ => by cases o <;> rfl⟩

end DuartEffect

/-! ## The parts of a command byte -/

namespace DuartEffect

variable {i : Instr} {n : Nat} {s : State} {c : CmdWrite}

theorem setTxOn (v : Bool) : DuartEffect i n s (s.setTxOn c v) := onChan (fun _ h => { h with }) fun _ _ _ => rfl

theorem setRxOn (v : Bool) : DuartEffect i n s (s.setRxOn c v) := onChan (fun _ h => { h with }) fun _ _ _ => rfl

theorem freeTxOn : DuartEffect i n s (s.freeTxOn c) := trans (n := 0) (freeIdx (s.freeIdx + 1)) (setTxOn _)

theorem freeRxOn : DuartEffect i n s (s.freeRxOn c) := trans (n := 0) (freeIdx (s.freeIdx + 1)) (setRxOn _)

theorem resetModePointer : DuartEffect i n s (s.resetModePointer c) :=
  onChan (fun _ h => { h with }) fun _ _ _ => rfl

/-- The one part of a command byte that empties a receive queue. -/
theorem resetRx (hi : resetsReceiver c.ch i = true) : DuartEffect i n s (s.resetRx c) :=
  onChan (fun _ h => { h with }) fun hr => Bool.noConfusion (hi.symm.trans hr)

theorem resetTx : DuartEffect i n s (s.resetTx c) :=
  onChan (fun _ h => { h with tx_empty := rfl }) fun _ _ _ => rfl

theorem resetErrors : DuartEffect i n s (s.resetErrors c) :=
  onChan (fun _ h => { h with no_break := rfl, no_parity := rfl, no_framing := rfl, no_overrun := rfl }) fun _ _ _ => rfl

theorem resetBreakIrq : DuartEffect i n s (s.resetBreakIrq c) :=
  onChan (fun _ h => { h with no_irq := rfl }) fun _ _ _ => rfl

theorem setRxBrg (v : Bool) : DuartEffect i n s (s.setRxBrg c v) := onChan (fun _ h => { h with }) fun _ _ _ => rfl

theorem setTxBrg (v : Bool) : DuartEffect i n s (s.setTxBrg c v) := onChan (fun _ h => { h with }) fun _ _ _ => rfl

theorem unimplemented : DuartEffect i 1 s (s.unimplemented c) := log (by decide) _

theorem applyTxc : DuartEffect i 0 s (s.applyTxc c) := by
  unfold State.applyTxc
  split
  · exact refl ..
  · exact setTxOn _
  · exact setTxOn _
  · exact freeTxOn

theorem applyRxc : DuartEffect i 0 s (s.applyRxc c) := by
  unfold State.applyRxc
  split
  · exact refl ..
  · exact setRxOn _
  · exact setRxOn _
  · exact freeRxOn

theorem applyCmd (hi : c.cmd = 2 → resetsReceiver c.ch i = true) : DuartEffect i 1 s (s.applyCmd c) := by
  unfold State.applyCmd
  split
  · exact refl ..
  · exact resetModePointer
  next h => exact resetRx (hi (BitVec.eq_of_toNat_eq h))
  · exact resetTx
  · exact resetErrors
  · exact resetBreakIrq
  · exact setRxBrg _
  · exact setRxBrg _
  · exact setTxBrg _
  · exact setTxBrg _
  · exact unimplemented

theorem command {a : Word} {ch : Channel} {d : Byte} : DuartEffect (.crWr a ch d) 1 s (s.command ⟨a, ch, d⟩) :=
  (applyTxc.trans applyRxc).trans (applyCmd fun h => by simp [resetsReceiver, h])

end DuartEffect

theorem DuartChannel.transmit_rxFifo (c : DuartChannel) (d : Byte) : (c.transmit d).rxFifo = c.rxFifo := by
  unfold DuartChannel.transmit
  split <;> rfl

/-! ## The five effects -/

/-- All that operation `i` can do to a state. -/
inductive Effect : Instr → State → State → Prop
  /-- The recovery path of an access that the router refuses. -/
  | unmapped {i : Instr} {s : State} (t : Access) (h : reportsUnmapped i = true) :
    Effect i s (s.unhandled .unmappedAddress t)
  /-- A RAM write. -/
  | storesRam {s : State} (a : Word) (w : Width) (d : Word) :
    Effect (.ramWr a w d) s ((s.setRamBytes (s.cfg.offset .ram a) (beBytes w d)).reply .proceed 0)
  /-- A Normal-mode write of the DS1244. -/
  | detects {s : State} (a : Word) (d : Byte) : Effect (.rtcWrNormal a d) s
    (((s.setNvramByte (s.nvramAt a) d).detect (.write8 a d) (d.getLsbD 0)).reply .proceed 0)
  /-- A Serial-mode cycle of the DS1244. -/
  | cycles {i : Instr} {s : State} (t : Access) (hr : reportsUnmapped i = false) (h : i.mode = some true) :
    Effect i s ((s.serialCycle t).reply .proceed 0)
  /-- Anything else is bounded by `DuartEffect` and answers `proceed`. -/
  | proceeds {i : Instr} {s u : State} (v : Word) (hr : reportsUnmapped i = false) (h : DuartEffect i 1 s u) :
    Effect i s (u.reply .proceed v)

theorem Effect.busError {i : Instr} (hr : reportsUnmapped i = false) (s : State) (k : BusErrorKind) (t : Access) :
    Effect i s (s.busError k t) := by
  rw [State.busError_eq]
  exact .proceeds 0 hr (.log (by cases k <;> decide) t)

/-- Every transaction is its effect on a running router. -/
theorem exec_transaction {i : Instr} (hi : isTransaction i = true) :
    ∃ f : State → State, (∀ s, exec i s = s.transact f) ∧ ∀ s, Effect i s (f s) := by
  cases i with
  | romStraddle | ramStraddle | romWr | unmappedRd | unmappedWr => exact ⟨_, fun _ => rfl, fun _ => .unmapped _ rfl⟩
  | rtcBadwidth | duartBadwidth | duartUnimplRd | duartUnimplWr | tubeBadwidth | tubeRd | vfdBadwidth | vfdRd =>
    exact ⟨_, fun _ => rfl, fun _ => .busError rfl ..⟩
  | ramWr => exact ⟨_, fun _ => rfl, fun _ => .storesRam ..⟩
  | rtcWrNormal => exact ⟨_, fun _ => rfl, fun _ => .detects ..⟩
  | rtcWrSerial | rtcRdSerial => exact ⟨_, fun _ => rfl, fun _ => .cycles _ rfl rfl⟩
  | romRd | ramRd | rtcRdNormal | srRd | csrWr | acrWr | imrWr | opcrWr | oprSetWr | oprClrWr | tubeWr | vfdWr
  | cmdNop | txcNochange | rxcNochange => exact ⟨_, fun _ => rfl, fun _ => .proceeds _ rfl (.refl ..)⟩
  | cturWr | ctlrWr | ivrWr => exact ⟨_, fun _ => rfl, fun _ => .proceeds _ rfl (.registers ..)⟩
  | mrWr => exact ⟨_, fun _ => rfl, fun _ => .proceeds _ rfl (.onChan (fun _ h => { h with }) fun _ _ _ => rfl)⟩
  | thrWr =>
    exact ⟨_, fun _ => rfl, fun _ =>
      .proceeds _ rfl (.onChan (fun _ h => h.transmit _) fun _ _ c => c.transmit_rxFifo _)⟩
  | rhrRd a ch =>
    refine ⟨_, fun _ => rfl, fun s => ?_⟩
    split
    · exact .proceeds _ rfl (.onChan (fun _ h => { h with }) fun _ hh => by simp [holdingRead] at hh)
    · exact .proceeds _ rfl (.log (by decide) _)
  | crWr => exact ⟨_, fun _ => rfl, fun _ => .proceeds _ rfl .command⟩
  | cmdResetMrp => exact ⟨_, fun _ => rfl, fun _ => .proceeds _ rfl .resetModePointer⟩
  | cmdResetRx => exact ⟨_, fun _ => rfl, fun _ => .proceeds _ rfl (.resetRx (by simp [resetsReceiver]))⟩
  | cmdResetTx => exact ⟨_, fun _ => rfl, fun _ => .proceeds _ rfl .resetTx⟩
  | cmdResetErr => exact ⟨_, fun _ => rfl, fun _ => .proceeds _ rfl .resetErrors⟩
  | cmdResetBrkirq => exact ⟨_, fun _ => rfl, fun _ => .proceeds _ rfl .resetBreakIrq⟩
  | cmdSetRxbrg | cmdClrRxbrg => exact ⟨_, fun _ => rfl, fun _ => .proceeds _ rfl (.setRxBrg _)⟩
  | cmdSetTxbrg | cmdClrTxbrg => exact ⟨_, fun _ => rfl, fun _ => .proceeds _ rfl (.setTxBrg _)⟩
  | cmdStartBreak | cmdStopBreak | cmdStandby | cmdActive | cmdRsvdE | cmdRsvdF =>
    exact ⟨_, fun _ => rfl, fun _ => .proceeds _ rfl .unimplemented⟩
  | txcEnable | txcDisable => exact ⟨_, fun _ => rfl, fun _ => .proceeds _ rfl (.setTxOn _)⟩
  | rxcEnable | rxcDisable => exact ⟨_, fun _ => rfl, fun _ => .proceeds _ rfl (.setRxOn _)⟩
  | txcReserved => exact ⟨_, fun _ => rfl, fun _ => .proceeds _ rfl .freeTxOn⟩
  | rxcReserved => exact ⟨_, fun _ => rfl, fun _ => .proceeds _ rfl .freeRxOn⟩
  | rxPush => cases hi

end Sys2Proof.Machine
end

section
/-! PROOFS. The decoder against the encoder (30_encoding.md R75, R89): every row of the table is read back from its frame,
and whatever is read is a row with operands of its columns. -/

namespace Sys2Proof

/-! ## What the operand columns say -/

theorem Config.straddling_iff {c : Config} {r : Region} {t : Access} :
    c.straddling r t = true ↔ c.addrIn r t.addr = true ∧ c.straddles r t.addr t.width = true := by
  simp [Config.straddling]

theorem Config.wide_iff {c : Config} {r : Region} {t : Access} :
    c.wide r t = true ↔ c.addrIn r t.addr = true ∧ t.width ≠ .w8 := by
  simp [Config.wide]

theorem Config.noRegister_iff {c : Config} {a : Word} :
    c.noRegister a = true ↔ c.addrIn .duart a = true ∧ c.duartReg (c.offset .duart a) = none := by
  simp [Config.noRegister]

theorem Config.unmapped_iff {c : Config} {a : Word} : c.unmapped a = true ↔ c.mask a = a ∧ c.region a.toNat = none := by
  simp [Config.unmapped]

theorem Config.addrOf_iff {c : Config} {k : Fin 16} {a : Word} :
    c.addrOf k a = true ↔ c.addrIn .duart a = true ∧ c.duartReg (c.offset .duart a) = some k := by
  simp [Config.addrOf]

theorem unreadable_iff {k : Fin 16} : unreadable k = true ↔ k ≠ 1 ∧ k ≠ 3 ∧ k ≠ 9 ∧ k ≠ 11 := by
  revert k; decide

theorem Config.noRead_iff {c : Config} {a : Word} : c.noRead a = true ↔
    c.addrIn .duart a = true ∧ ∀ k, c.duartReg (c.offset .duart a) = some k → k ≠ 1 ∧ k ≠ 3 ∧ k ≠ 9 ∧ k ≠ 11 := by
  unfold Config.noRead
  cases c.duartReg (c.offset .duart a) <;> simp [unreadable_iff]

/-! ## The rows of a command byte -/

theorem CmdWrite.cmdRow_wf {c : Config} {w : CmdWrite} (h : w.wf c = true) : w.cmdRow.wf c = true := by
  unfold CmdWrite.cmdRow
  generalize hk : w.cmd = k
  obtain ⟨k⟩ := k
  fin_cases k <;> exact Bool.and_eq_true_iff.2 ⟨h, decide_eq_true hk⟩

theorem CmdWrite.txcRow_wf {c : Config} {w : CmdWrite} (h : w.wf c = true) : w.txcRow.wf c = true := by
  unfold CmdWrite.txcRow
  generalize hk : w.txc = k
  obtain ⟨k⟩ := k
  fin_cases k <;> exact Bool.and_eq_true_iff.2 ⟨h, decide_eq_true hk⟩

theorem CmdWrite.rxcRow_wf {c : Config} {w : CmdWrite} (h : w.wf c = true) : w.rxcRow.wf c = true := by
  unfold CmdWrite.rxcRow
  generalize hk : w.rxc = k
  obtain ⟨k⟩ := k
  fin_cases k <;> exact Bool.and_eq_true_iff.2 ⟨h, decide_eq_true hk⟩

theorem CmdWrite.cmdRow_mode (w : CmdWrite) : w.cmdRow.mode = none := by
  unfold CmdWrite.cmdRow
  split <;> rfl

theorem CmdWrite.txcRow_mode (w : CmdWrite) : w.txcRow.mode = none := by
  unfold CmdWrite.txcRow
  split <;> rfl

theorem CmdWrite.rxcRow_mode (w : CmdWrite) : w.rxcRow.mode = none := by
  unfold CmdWrite.rxcRow
  split <;> rfl

theorem Instr.selectedIn_of_mode_none {i : Instr} (h : i.mode = none) (m : Bool) : i.selectedIn m = true := by
  rw [Instr.selectedIn, h]

/-! ## Whatever is read is well-formed -/

/-- A register index that is none of the four readable ones reads as unimplemented (42_duart.md R194). -/
theorem decodeDuartRead_of_unreadable {a : Word} {k : Fin 16} (h : k ≠ 1 ∧ k ≠ 3 ∧ k ≠ 9 ∧ k ≠ 11) :
    decodeDuartRead a k = .duartUnimplRd a := by
  obtain ⟨h1, h3, h9, h11⟩ := h
  unfold decodeDuartRead
  split
  next hk => exact absurd (Fin.ext hk) h1
  next hk => exact absurd (Fin.ext hk) h3
  next hk => exact absurd (Fin.ext hk) h9
  next hk => exact absurd (Fin.ext hk) h11
  next => rfl

/-- An 8-bit read of register index `k`, which is one of the four readable positions or none of them. -/
theorem decodeDuartRead_wf {c : Config} {a : Word} {k : Fin 16} (h : c.addrOf k a = true) :
    (decodeDuartRead a k).wf c = true := by
  obtain ⟨hin, hreg⟩ := Config.addrOf_iff.1 h
  have hno : k ≠ 1 ∧ k ≠ 3 ∧ k ≠ 9 ∧ k ≠ 11 → c.noRead a = true := fun hk =>
    Config.noRead_iff.2 ⟨hin, fun j hj => by rwa [← Option.some_inj.1 (hreg.symm.trans hj)]⟩
  have hk : k = 1 ∨ k = 3 ∨ k = 9 ∨ k = 11 ∨ k ≠ 1 ∧ k ≠ 3 ∧ k ≠ 9 ∧ k ≠ 11 := by tauto
  rcases hk with rfl | rfl | rfl | rfl | hk
  · exact h
  · exact h
  · exact h
  · exact h
  · rw [decodeDuartRead_of_unreadable hk]
    exact hno hk

theorem decodeDuartWrite_wf {c : Config} {a : Word} {k : Fin 16} (h : c.addrOf k a = true) (d : Byte) :
    (decodeDuartWrite a d k).wf c = true := by
  fin_cases k <;> exact h

theorem decodeDuartRead_mode (a : Word) (k : Fin 16) : (decodeDuartRead a k).mode = none := by
  unfold decodeDuartRead
  split <;> rfl

theorem decodeDuartWrite_mode (a : Word) (d : Byte) (k : Fin 16) : (decodeDuartWrite a d k).mode = none := by
  unfold decodeDuartWrite
  split <;> rfl

theorem decodeDuart_wf {c : Config} {t : Access} (h : c.addrIn .duart t.addr = true) :
    (decodeDuart c t).wf c = true ∧ (decodeDuart c t).mode = none := by
  unfold decodeDuart
  split
  next hw => exact ⟨Config.wide_iff.2 ⟨h, hw⟩, rfl⟩
  next =>
    split
    next hreg _ => exact ⟨Config.noRead_iff.2 ⟨h, by simp [hreg]⟩, rfl⟩
    next hreg _ => exact ⟨Config.noRegister_iff.2 ⟨h, hreg⟩, rfl⟩
    next hreg _ => exact ⟨decodeDuartRead_wf (Config.addrOf_iff.2 ⟨h, hreg⟩), decodeDuartRead_mode ..⟩
    next hreg _ => exact ⟨decodeDuartWrite_wf (Config.addrOf_iff.2 ⟨h, hreg⟩) _, decodeDuartWrite_mode ..⟩

theorem decodeRtc_wf {c : Config} {t : Access} (h : c.addrIn .rtc t.addr = true) (m : Bool) :
    (decodeRtc m t).wf c = true ∧ (decodeRtc m t).selectedIn m = true := by
  unfold decodeRtc
  split
  next hw => exact ⟨Config.wide_iff.2 ⟨h, hw⟩, rfl⟩
  next => split <;> exact ⟨h, rfl⟩

theorem decodeTube_wf {c : Config} {t : Access} (h : c.addrIn .tube t.addr = true) :
    (decodeTube t).wf c = true ∧ (decodeTube t).mode = none := by
  unfold decodeTube
  split
  next hw => exact ⟨Config.wide_iff.2 ⟨h, hw⟩, rfl⟩
  next => split <;> exact ⟨h, rfl⟩

theorem decodeVfd_wf {c : Config} {t : Access} (h : c.addrIn .vfd t.addr = true) :
    (decodeVfd t).wf c = true ∧ (decodeVfd t).mode = none := by
  unfold decodeVfd
  split
  next hw => exact ⟨Config.wide_iff.2 ⟨h, hw⟩, rfl⟩
  next => split <;> exact ⟨h, rfl⟩

/-- The dispatch of a masked address selects a row whose operands and condition it meets. -/
theorem decodeBus_wf {c : Config} {t : Access} (hmask : c.mask t.addr = t.addr) (m : Bool) :
    (decodeBus c m t).wf c = true ∧ (decodeBus c m t).selectedIn m = true := by
  have hin : ∀ {r}, c.region t.addr.toNat = some r → c.addrIn r t.addr = true := fun h => Config.addrIn_iff.2 ⟨hmask, h⟩
  have hnone : ∀ {i : Instr}, i.wf c = true ∧ i.mode = none → i.wf c = true ∧ i.selectedIn m = true :=
    fun h => ⟨h.1, Instr.selectedIn_of_mode_none h.2 m⟩
  unfold decodeBus
  split
  next hr =>
    split
    next hs => exact ⟨Config.straddling_iff.2 ⟨hin hr, hs⟩, rfl⟩
    next hs => split <;> exact ⟨Config.fits_iff.2 ⟨hin hr, Bool.eq_false_iff.2 hs⟩, rfl⟩
  next hr =>
    split
    next hs => exact ⟨Config.straddling_iff.2 ⟨hin hr, hs⟩, rfl⟩
    next hs => split <;> exact ⟨Config.fits_iff.2 ⟨hin hr, Bool.eq_false_iff.2 hs⟩, rfl⟩
  next hr => exact hnone (decodeDuart_wf (hin hr))
  next hr => exact decodeRtc_wf (hin hr) m
  next hr => exact hnone (decodeTube_wf (hin hr))
  next hr => exact hnone (decodeVfd_wf (hin hr))
  next hr => split <;> exact ⟨Config.unmapped_iff.2 ⟨hmask, hr⟩, rfl⟩

/-- A transaction that is required of a frame has a masked address. -/
theorem Frame.require_ok {c : Config} {f : Frame} {k : Access → Except DecodeError Instr} {i : Instr}
    (h : f.require c k = .ok i) : ∃ t, c.mask t.addr = t.addr ∧ k t = .ok i := by
  unfold Frame.require at h
  split at h
  next t ht => exact ⟨t, Frame.access_masked ht, h⟩
  next => cases h

/-- A row of a CR format is a row of a write to the command register of its channel. -/
theorem decodeCommand_ok {c : Config} {row : CmdWrite → Instr} {t : Access} {i : Instr} (hmask : c.mask t.addr = t.addr)
    (h : decodeCommand c row t = .ok i) : ∃ w : CmdWrite, w.wf c = true ∧ i = row w := by
  have hwf := (decodeBus_wf hmask false).1
  unfold decodeCommand at h
  split at h
  next a ch d heq =>
    rw [heq] at hwf
    exact ⟨⟨a, ch, d⟩, hwf, by cases h; rfl⟩
  next => cases h

/-- Settles O3: by the format; a BUS36 frame is dispatched, a CR frame is a part of a command write. -/
theorem decodedOperationIsWellFormed : Obligations.DecodedOperationIsWellFormed := by
  intro c m f i h
  unfold decode at h
  split at h
  next =>
    obtain ⟨t, hmask, ht⟩ := Frame.require_ok h
    cases ht
    exact decodeBus_wf hmask m
  next =>
    obtain ⟨t, hmask, ht⟩ := Frame.require_ok h
    obtain ⟨w, hw, rfl⟩ := decodeCommand_ok hmask ht
    exact ⟨w.cmdRow_wf hw, Instr.selectedIn_of_mode_none w.cmdRow_mode m⟩
  next =>
    obtain ⟨t, hmask, ht⟩ := Frame.require_ok h
    obtain ⟨w, hw, rfl⟩ := decodeCommand_ok hmask ht
    exact ⟨w.txcRow_wf hw, Instr.selectedIn_of_mode_none w.txcRow_mode m⟩
  next =>
    obtain ⟨t, hmask, ht⟩ := Frame.require_ok h
    obtain ⟨w, hw, rfl⟩ := decodeCommand_ok hmask ht
    exact ⟨w.rxcRow_wf hw, Instr.selectedIn_of_mode_none w.rxcRow_mode m⟩
  next =>
    unfold decodeAgent at h
    split at h
    · cases h; exact ⟨rfl, rfl⟩
    · cases h
  next => cases h

/-! ## Which access each row is -/

section
variable {c : Config} {a : Word} (m : Bool)

theorem decodeBus_romStraddle {t : Access} (h : c.straddling .rom t = true) : decodeBus c m t = .romStraddle t := by
  obtain ⟨hin, hs⟩ := Config.straddling_iff.1 h
  simp [decodeBus, (Config.addrIn_iff.1 hin).2, hs]

theorem decodeBus_ramStraddle {t : Access} (h : c.straddling .ram t = true) : decodeBus c m t = .ramStraddle t := by
  obtain ⟨hin, hs⟩ := Config.straddling_iff.1 h
  simp [decodeBus, (Config.addrIn_iff.1 hin).2, hs]

theorem decodeBus_romWr {w : Width} (h : c.fits .rom a w = true) (d : Word) :
    decodeBus c m ⟨a, w, .write d⟩ = .romWr a w d := by
  obtain ⟨hreg, hstr⟩ := Config.region_and_not_straddles_of_fits h
  simp [decodeBus, hreg, hstr]

theorem decodeBus_rtcRd8 (h : c.region a.toNat = some .rtc) :
    decodeBus c m (.read8 a) = if m then .rtcRdSerial a else .rtcRdNormal a := by
  cases m <;> simp [decodeBus, decodeRtc, Access.read8, h]

theorem decodeBus_rtcWr8 (h : c.region a.toNat = some .rtc) (d : Byte) :
    decodeBus c m (.write8 a d) = if m then .rtcWrSerial a d else .rtcWrNormal a d := by
  cases m <;> simp [decodeBus, decodeRtc, Access.write8, h]

theorem decodeBus_duartUnimplRd (h : c.noRead a = true) : decodeBus c m (.read8 a) = .duartUnimplRd a := by
  obtain ⟨hin, hno⟩ := Config.noRead_iff.1 h
  cases hreg : c.duartReg (c.offset .duart a) with
  | none => simp [decodeBus, decodeDuart, Access.read8, (Config.addrIn_iff.1 hin).2, hreg]
  | some k => rw [decodeBus_read8 (Config.addrOf_iff.2 ⟨hin, hreg⟩), decodeDuartRead_of_unreadable (hno k hreg)]

theorem decodeBus_duartUnimplWr (h : c.noRegister a = true) (d : Byte) :
    decodeBus c m (.write8 a d) = .duartUnimplWr a d := by
  obtain ⟨hin, hreg⟩ := Config.noRegister_iff.1 h
  simp [decodeBus, decodeDuart, Access.write8, (Config.addrIn_iff.1 hin).2, hreg]

end

/-! ## The encoder's frames -/

theorem Instr.mode_eq_of_selectedIn {i : Instr} {m b : Bool} (hi : i.mode = some b) (h : i.selectedIn m = true) : m = b := by
  rw [Instr.selectedIn, hi] at h
  exact (eq_of_beq h).symm

/-- A BUS36 frame is the dispatch of its transaction. -/
theorem decode_busFrame {c : Config} {m : Bool} {t : Access} {i : Instr} (hmask : c.mask t.addr = t.addr)
    (h : decodeBus c m t = i) : decode c m (t.frame 0) = .ok i := by
  simp [decode, Access.frame_require hmask, h]

section
variable {c : Config} {w : CmdWrite} (h : w.wf c = true) (m : Bool)
include h

theorem decodeCommand_access (row : CmdWrite → Instr) : decodeCommand c row w.access = .ok (row w) := by
  obtain ⟨a, ch, d⟩ := w
  have hbus : decodeBus c false (.write8 a d) = .crWr a ch d := (decodeBus_write8 h false d).trans (by cases ch <;> rfl)
  rw [decodeCommand, CmdWrite.access, hbus]

theorem CmdWrite.mask_access : c.mask w.access.addr = w.access.addr := (addrOf_region h).1

theorem decode_cmdFrame : decode c m (w.access.frame 1) = .ok w.cmdRow := by
  simp [decode, Access.frame_require (CmdWrite.mask_access h), decodeCommand_access h]

theorem decode_txcFrame : decode c m (w.access.frame 2) = .ok w.txcRow := by
  simp [decode, Access.frame_require (CmdWrite.mask_access h), decodeCommand_access h]

theorem decode_rxcFrame : decode c m (w.access.frame 3) = .ok w.rxcRow := by
  simp [decode, Access.frame_require (CmdWrite.mask_access h), decodeCommand_access h]

end

/-- Settles O1: row by row, the frame is that of the one transaction which the dispatch gives to the row. -/
theorem decodeInvertsEncode : Obligations.DecodeInvertsEncode := by
  intro c i m h hm
  have hmask : ∀ {r a}, c.addrIn r a = true → c.mask a = a := fun hin => (Config.addrIn_iff.1 hin).1
  have hreg : ∀ {r a}, c.addrIn r a = true → c.region a.toNat = some r := fun hin => (Config.addrIn_iff.1 hin).2
  cases i with
  | romStraddle t => exact decode_busFrame (hmask (Config.straddling_iff.1 h).1) (decodeBus_romStraddle m h)
  | ramStraddle t => exact decode_busFrame (hmask (Config.straddling_iff.1 h).1) (decodeBus_ramStraddle m h)
  | romRd => exact decode_busFrame (hmask (Config.fits_iff.1 h).1) (decodeBus_romRd h m)
  | romWr => exact decode_busFrame (hmask (Config.fits_iff.1 h).1) (decodeBus_romWr m h _)
  | ramRd => exact decode_busFrame (hmask (Config.fits_iff.1 h).1) (decodeBus_ramRd h m)
  | ramWr => exact decode_busFrame (hmask (Config.fits_iff.1 h).1) (decodeBus_ramWr h m _)
  | rtcBadwidth =>
    obtain ⟨hin, hw⟩ := Config.wide_iff.1 h
    exact decode_busFrame (hmask hin) (decodeBus_rtcBadwidth hw m (hreg hin))
  | rtcWrNormal | rtcWrSerial =>
    cases Instr.mode_eq_of_selectedIn rfl hm
    exact decode_busFrame (hmask h) (decodeBus_rtcWr8 _ (hreg h) _)
  | rtcRdNormal | rtcRdSerial =>
    cases Instr.mode_eq_of_selectedIn rfl hm
    exact decode_busFrame (hmask h) (decodeBus_rtcRd8 _ (hreg h))
  | duartBadwidth =>
    obtain ⟨hin, hw⟩ := Config.wide_iff.1 h
    exact decode_busFrame (hmask hin) (decodeBus_duartBadwidth hw m (hreg hin))
  | srRd _ ch | rhrRd _ ch =>
    exact decode_busFrame (addrOf_region h).1 ((decodeBus_read8 h m).trans (by cases ch <;> rfl))
  | mrWr _ ch | csrWr _ ch | crWr _ ch | thrWr _ ch =>
    exact decode_busFrame (addrOf_region h).1 ((decodeBus_write8 h m _).trans (by cases ch <;> rfl))
  | acrWr | imrWr | cturWr | ctlrWr | ivrWr | opcrWr | oprSetWr | oprClrWr =>
    exact decode_busFrame (addrOf_region h).1 (decodeBus_write8 h m _)
  | duartUnimplRd => exact decode_busFrame (hmask (Config.noRead_iff.1 h).1) (decodeBus_duartUnimplRd m h)
  | duartUnimplWr => exact decode_busFrame (hmask (Config.noRegister_iff.1 h).1) (decodeBus_duartUnimplWr m h _)
  | tubeBadwidth =>
    obtain ⟨hin, hw⟩ := Config.wide_iff.1 h
    exact decode_busFrame (hmask hin) (decodeBus_tubeBadwidth hw m (hreg hin))
  | tubeWr => exact decode_busFrame (hmask h) (decodeBus_tubeWr m _ (hreg h))
  | tubeRd => exact decode_busFrame (hmask h) (decodeBus_tubeRd m (hreg h))
  | vfdBadwidth =>
    obtain ⟨hin, hw⟩ := Config.wide_iff.1 h
    exact decode_busFrame (hmask hin) (decodeBus_vfdBadwidth hw m (hreg hin))
  | vfdWr => exact decode_busFrame (hmask h) (decodeBus_vfdWr m _ (hreg h))
  | vfdRd => exact decode_busFrame (hmask h) (decodeBus_vfdRd m (hreg h))
  | unmappedRd =>
    obtain ⟨hm, hnone⟩ := Config.unmapped_iff.1 h
    exact decode_busFrame hm (decodeBus_unmappedRd hnone m _)
  | unmappedWr =>
    obtain ⟨hm, hnone⟩ := Config.unmapped_iff.1 h
    exact decode_busFrame hm (decodeBus_unmappedWr hnone m _ _)
  | cmdNop | cmdResetMrp | cmdResetRx | cmdResetTx | cmdResetErr | cmdResetBrkirq | cmdStartBreak | cmdStopBreak
  | cmdSetRxbrg | cmdClrRxbrg | cmdSetTxbrg | cmdClrTxbrg | cmdStandby | cmdActive | cmdRsvdE | cmdRsvdF =>
    obtain ⟨hw, hk⟩ := Bool.and_eq_true_iff.1 h
    exact (decode_cmdFrame hw m).trans (by simp [CmdWrite.cmdRow, of_decide_eq_true hk])
  | txcNochange | txcEnable | txcDisable | txcReserved =>
    obtain ⟨hw, hk⟩ := Bool.and_eq_true_iff.1 h
    exact (decode_txcFrame hw m).trans (by simp [CmdWrite.txcRow, of_decide_eq_true hk])
  | rxcNochange | rxcEnable | rxcDisable | rxcReserved =>
    obtain ⟨hw, hk⟩ := Bool.and_eq_true_iff.1 h
    exact (decode_rxcFrame hw m).trans (by simp [CmdWrite.rxcRow, of_decide_eq_true hk])
  | rxPush ch b =>
    rw [encode, decode, pushFrame_format]
    exact decodeAgent_pushFrame ch b

/-- Settles O2: the nine bytes give the frame back, which decodes to the operation. -/
theorem byteStreamDecodeInvertsEncode : Obligations.ByteStreamDecodeInvertsEncode := by
  intro c i m rest h hm
  rw [decodeBytes, Frame.ofBytes_toBytes]
  simp only [decodeInvertsEncode c i m h hm]
  rfl

end Sys2Proof
end

section
/-! PROOFS. Which configurations are legal (00_scope.md R6), and that no other one takes a step. -/

namespace Sys2Proof

theorem forall_mem_allRegions {p : Region → Prop} : (∀ r ∈ allRegions, p r) ↔ ∀ r, p r :=
  ⟨fun h r => h r (mem_allRegions r), fun h r _ => h r⟩

/-- R6 (a) to (e) with the images' own form, each constraint said of addresses. -/
theorem Config.wf_iff {c : Config} : c.wf = true ↔
    c.romBase = 0
    ∧ (∀ r q : Region, r ≠ q → ∀ x : Nat,
        ¬ (c.base r ≤ x ∧ x < c.base r + c.size r ∧ c.base q ≤ x ∧ x < c.base q + c.size q))
    ∧ (∀ r : Region, 0x10000 ∣ c.base r ∧ 0x10000 ∣ c.size r)
    ∧ (∀ r : Region, c.base r + c.size r ≤ c.addrMask.toNat + 1)
    ∧ 8 ≤ c.romSize
    ∧ c.romImage.wf none = true ∧ c.romImage.inside c.romSize = true
    ∧ c.nvramInit.wf (some 0) = true ∧ c.nvramInit.inside 0x8000 = true := by
  simp only [Config.wf, Bool.and_eq_true, List.all_eq_true, Bool.or_eq_true, decide_eq_true_eq, forall_mem_allRegions,
    or_iff_not_imp_left, Config.disjoint_iff, Nat.dvd_iff_mod_eq_zero, and_assoc]
  rfl

/-- Settles O10: the check is R6 constraint by constraint, and a step makes it before anything else. -/
theorem configurationConstraints : Obligations.ConfigurationConstraints :=
  ⟨fun _ => Config.wf_iff, fun s h => by simp [Machine.step, Machine.State.fetch, h]⟩

end Sys2Proof
end

section
/-! PROOFS. What every operation keeps: the log grows by at most one entry, only an access the router refuses aborts, the
DS1244 is left to its own three rows, and the invariant of the machine (10_state.md R20, 42_duart.md R197, R198) is kept
by every step. -/

namespace Sys2Proof.Machine

/-! ## Transactions and pushes -/

theorem isTransaction_iff {i : Instr} : isTransaction i = true ↔ ∀ ch b, i ≠ .rxPush ch b := by
  cases i <;> simp [isTransaction]

theorem eq_rxPush_of_not_isTransaction {i : Instr} (h : ¬ isTransaction i = true) : ∃ ch b, i = .rxPush ch b := by
  simpa [isTransaction_iff] using h

/-- While halted a transaction is a fault; while running it completes with its effect. -/
theorem exec_of_halted {i : Instr} {s : State} (hi : isTransaction i = true) (h : s.halted = true) :
    exec i s = .fault .halted := by
  obtain ⟨f, hf, -⟩ := exec_transaction hi
  rw [hf, State.transact_of_halted h]

theorem exec_of_running {i : Instr} {s : State} (hi : isTransaction i = true) (h : s.halted = false) :
    ∃ t, exec i s = .next t ∧ Effect i s t := by
  obtain ⟨f, hf, he⟩ := exec_transaction hi
  exact ⟨f s, by rw [hf, State.transact_of_running h], he s⟩

theorem exec_effect {i : Instr} {s t : State} (hi : isTransaction i = true) (h : exec i s = .next t) :
    s.halted = false ∧ Effect i s t := by
  obtain ⟨f, hf, he⟩ := exec_transaction hi
  obtain ⟨hrun, rfl⟩ := State.transact_next.1 ((hf s).symm.trans h)
  exact ⟨hrun, he s⟩

/-- Every operation that gives a next state: a transaction on a running router, or a push. -/
theorem exec_next {i : Instr} {s t : State} (h : exec i s = .next t) :
    (isTransaction i = true ∧ s.halted = false ∧ Effect i s t)
    ∨ ∃ ch b, i = .rxPush ch b ∧ t = s.onChan ch fun c => { c with rxFifo := c.rxFifo ++ [b] } := by
  by_cases hi : isTransaction i = true
  · exact .inl ⟨hi, exec_effect hi h⟩
  · obtain ⟨ch, b, rfl⟩ := eq_rxPush_of_not_isTransaction hi
    cases h
    exact .inr ⟨ch, b, rfl, rfl⟩

/-! ## Answers, the log and `halted` -/

theorem Effect.answered {i : Instr} {s t : State} (h : Effect i s t) : ∃ a, t.answer = some a := by
  cases h with
  | unmapped t =>
    obtain ⟨_, _, heq, -⟩ := s.unhandled_eq .unmappedAddress t
    exact ⟨_, congrArg State.answer heq⟩
  | storesRam | detects | cycles | proceeds => exact ⟨_, rfl⟩

/-- The log gains at most one entry, which is no ResourceError (60_exceptions.md R227). -/
theorem Effect.entries {i : Instr} {s t : State} (h : Effect i s t) :
    ∃ es, t.diag = s.diag ++ es ∧ es.length ≤ 1 ∧ ∀ e ∈ es, e.kind ≠ .resourceError := by
  cases h with
  | unmapped t =>
    obtain ⟨_, _, heq, -⟩ := s.unhandled_eq .unmappedAddress t
    exact ⟨_, congrArg State.diag heq, le_refl 1, by simp⟩
  | storesRam => exact ⟨[], by simp⟩
  | detects a d =>
    obtain ⟨_, _, _, es, heq, hes⟩ := (s.setNvramByte (s.nvramAt a) d).detect_eq (.write8 a d) (d.getLsbD 0)
    exact ⟨es, congrArg State.diag heq, by rcases hes with rfl | rfl <;> simp⟩
  | cycles t =>
    obtain ⟨_, _, es, heq, hes⟩ := s.serialCycle_eq t
    exact ⟨es, congrArg State.diag heq, by rcases hes with rfl | rfl <;> simp⟩
  | proceeds v hr h => exact h.entries

theorem State.detect_halted (s : State) (t : Access) (bit : Bool) : (s.detect t bit).halted = s.halted := by
  obtain ⟨_, _, _, _, heq, -⟩ := s.detect_eq t bit
  rw [heq]

theorem State.serialCycle_halted (s : State) (t : Access) : (s.serialCycle t).halted = s.halted := by
  obtain ⟨_, _, _, heq, -⟩ := s.serialCycle_eq t
  rw [heq]

/-- On a running router only a row that reports an UnmappedAddressError aborts or halts, and only in strict mode. -/
theorem Effect.signal_and_halted {i : Instr} {s t : State} (h : Effect i s t) (hrun : s.halted = false) :
    t.answer.map Answer.signal = some (if s.cfg.strict && reportsUnmapped i then .abort else .proceed)
    ∧ t.halted = (s.cfg.strict && reportsUnmapped i) := by
  cases h with
  | unmapped t hr => simp [State.unhandled_unmappedAddress hrun, hr]
  | storesRam => simp [reportsUnmapped, hrun]
  | detects => simp [reportsUnmapped, State.detect_halted, hrun]
  | cycles t hr => simp [hr, State.serialCycle_halted, hrun]
  | proceeds v hr h =>
    have hu := congrArg State.halted h.frame
    simp_all

/-- Settles O13: at the level of the operation by the transaction, at that of the step before any test of the frame. -/
theorem haltedRouterTakesNoStep : Obligations.HaltedRouterTakesNoStep := by
  refine ⟨fun s i h hi => exec_of_halted (isTransaction_iff.2 hi) h, fun s f rest hwf h hin hf => ?_⟩
  simp [step, State.fetch, hwf, hin, h, transactionFrame, hf]

/-- Settles O14: a transaction completes with its effect, every one of which answers; a push always completes. -/
theorem everyAccessIsAnswered : Obligations.EveryAccessIsAnswered := by
  intro s i h
  by_cases hi : isTransaction i = true
  · obtain ⟨t, ht, he⟩ := exec_of_running hi h
    exact ⟨t, ht, fun _ => he.answered⟩
  · obtain ⟨ch, b, rfl⟩ := eq_rxPush_of_not_isTransaction hi
    exact ⟨_, exec_rxPush ch b s, fun hno => absurd rfl (hno ch b)⟩

/-- Settles O20: a transaction by its effect; a push logs nothing. -/
theorem logIsAppendOnly : Obligations.LogIsAppendOnly := by
  intro i s t h
  rcases exec_next h with ⟨-, -, he⟩ | ⟨ch, b, -, rfl⟩
  · obtain ⟨es, hes, hlen, -⟩ := he.entries
    exact ⟨es, hes, hlen⟩
  · exact ⟨[], by simp⟩

/-- Settles O21: the signal and `halted` of each effect. -/
theorem abortOnlyOnStrictUnmappedAccess : Obligations.AbortOnlyOnStrictUnmappedAccess := by
  intro i s t hi h
  obtain ⟨hrun, he⟩ := exec_effect hi h
  obtain ⟨hsig, hhalt⟩ := he.signal_and_halted hrun
  rw [hsig, hhalt, ← Bool.and_eq_true_iff]
  cases s.cfg.strict && reportsUnmapped i <;> simp

/-! ## The DS1244 -/

/-- The four elements of the DS1244. -/
def State.ds1244 (s : State) : Nat × Bool × Nat × Memory := (s.magicSeqOffset, s.activated, s.bitsToShift, s.nvram)

/-- A Normal-mode write and the Serial cycles aside, every effect leaves the DS1244 alone. -/
theorem Effect.ds1244 {i : Instr} {s t : State} (h : Effect i s t) (hw : ∀ a d, i ≠ .rtcWrNormal a d)
    (hs : i.mode ≠ some true) : t.ds1244 = s.ds1244 := by
  cases h with
  | unmapped t =>
    obtain ⟨_, _, heq, -⟩ := s.unhandled_eq .unmappedAddress t
    rw [heq]; rfl
  | storesRam => simp [State.ds1244]
  | detects a d => exact absurd rfl (hw a d)
  | cycles t _ hi => exact absurd hi hs
  | proceeds v hr h => exact (congrArg State.ds1244 h.frame :)

theorem Instr.mode_eq_serial {i : Instr} (h : i.mode = some true) :
    (∃ a d, i = .rtcWrSerial a d) ∨ ∃ a, i = .rtcRdSerial a := by
  cases i with
  | rtcWrSerial a d => exact .inl ⟨a, d, rfl⟩
  | rtcRdSerial a => exact .inr ⟨a, rfl⟩
  | _ => cases h

/-- Settles O41: a transaction by its effect; a push touches one channel. -/
theorem detectorIsUndisturbed : Obligations.DetectorIsUndisturbed := by
  intro i s t hw hsw hsr h
  have hs : i.mode ≠ some true := fun hm =>
    (Instr.mode_eq_serial hm).elim (fun ⟨a, d, e⟩ => hsw a d e) fun ⟨a, e⟩ => hsr a e
  have hds : t.ds1244 = s.ds1244 := by
    rcases exec_next h with ⟨-, -, he⟩ | ⟨ch, b, -, rfl⟩
    · exact he.ds1244 hw hs
    · simp [State.ds1244]
  simpa [State.ds1244] using hds

/-! ## The invariant of the machine -/

/-- What is presented and what was answered last do not matter to the invariant. -/
theorem State.Inv.take {s : State} (h : s.Inv) (fs : List Frame) (a : Option Answer) :
    State.Inv { s with inputs := fs, answer := a } :=
  ⟨h.cfg_wf, h.mem.congr rfl rfl rfl rfl, h.rtc.congr rfl rfl rfl, h.chA, h.chB, h.halt_strict, h.no_resource⟩

theorem State.Inv.setRamBytes {s : State} (h : s.Inv) {off : Nat} {bs : List Byte} (hle : off + bs.length ≤ s.cfg.ramSize) :
    (s.setRamBytes off bs).Inv :=
  ⟨by simpa using h.cfg_wf, h.mem.setRamBytes bs hle, h.rtc.congr (by simp) (by simp) (by simp), by simpa using h.chA,
    by simpa using h.chB, by simpa using h.halt_strict, by simpa using h.no_resource⟩

theorem State.Inv.setNvramByte {s : State} (h : s.Inv) (off : Nat) (v : Byte) : (s.setNvramByte (nvramIndex off) v).Inv :=
  ⟨h.cfg_wf, h.mem.setNvramByte off v, h.rtc.congr rfl rfl rfl, h.chA, h.chB, h.halt_strict, h.no_resource⟩

/-- The log may grow by anything but a ResourceError. -/
theorem State.Inv.no_resource_append {s : State} (h : s.Inv) {es : List DiagEntry}
    (hes : ∀ e ∈ es, e.kind ≠ .resourceError) : ∀ e ∈ s.diag ++ es, e.kind ≠ .resourceError :=
  fun e he => (List.mem_append.1 he).elim (h.no_resource e) (hes e)

/-- The detector runs in Normal mode only. -/
theorem State.Inv.detect {s : State} (h : s.Inv) (hn : s.activated = false) (t : Access) (bit : Bool) :
    (s.detect t bit).Inv := by
  have hrtc := h.rtc.detect hn t bit
  obtain ⟨_, _, _, es, heq, hes⟩ := s.detect_eq t bit
  rw [heq] at hrtc ⊢
  exact ⟨h.cfg_wf, h.mem.congr rfl rfl rfl rfl, hrtc, h.chA, h.chB, h.halt_strict,
    h.no_resource_append (by rcases hes with rfl | rfl <;> simp)⟩

/-- Serial cycles run in Serial mode only. -/
theorem State.Inv.serialCycle {s : State} (h : s.Inv) (ha : s.activated = true) (t : Access) : (s.serialCycle t).Inv := by
  have hrtc := h.rtc.serialCycle ha t
  obtain ⟨_, _, es, heq, hes⟩ := s.serialCycle_eq t
  rw [heq] at hrtc ⊢
  exact ⟨h.cfg_wf, h.mem.congr rfl rfl rfl rfl, hrtc, h.chA, h.chB, h.halt_strict,
    h.no_resource_append (by rcases hes with rfl | rfl <;> simp)⟩

theorem State.Inv.duartEffect {i : Instr} {n : Nat} {s u : State} (h : s.Inv) (he : DuartEffect i n s u) : u.Inv := by
  obtain ⟨es, hes, -, hkind⟩ := he.entries
  have hA : u.chA.Inv := he.chan_inv .A h.chA
  have hB : u.chB.Inv := he.chan_inv .B h.chB
  have hlog : ∀ e ∈ u.diag, e.kind ≠ .resourceError := hes ▸ h.no_resource_append hkind
  rw [he.frame]
  exact ⟨h.cfg_wf, h.mem.congr rfl rfl rfl rfl, h.rtc.congr rfl rfl rfl, hA, hB, h.halt_strict, hlog⟩

/-- A well-formed operation that its mode selects keeps the invariant: the store of a RAM write lies in RAM, and each row
of the DS1244 runs in its own mode. -/
theorem State.Inv.effect {i : Instr} {s t : State} (h : s.Inv) (hwf : i.wf s.cfg = true)
    (hsel : i.selectedIn s.activated = true) (he : Effect i s t) : t.Inv := by
  cases he with
  | unmapped t => exact h.unhandled (by decide) t
  | storesRam a w d =>
    refine (h.setRamBytes ?_).reply _ _
    rw [beBytes_length]
    exact Config.offset_of_fits hwf
  | detects a d => exact ((h.setNvramByte _ d).detect (Instr.mode_eq_of_selectedIn rfl hsel) _ _).reply _ _
  | cycles t _ hi => exact (h.serialCycle (Instr.mode_eq_of_selectedIn hi hsel) t).reply _ _
  | proceeds v _ he => exact (h.duartEffect he).reply _ v

/-- Settles O18: the operation of a step is well-formed and of the mode (O3), so its effect keeps the invariant; a push
lengthens one receive queue, of which the invariant does not speak. -/
theorem stepKeepsInvariant : Obligations.StepKeepsInvariant := by
  intro s t h hstep
  obtain ⟨-, f, rest, i, -, -, hdec, hexec⟩ := step_next hstep
  obtain ⟨hwf, hsel⟩ := decodedOperationIsWellFormed _ _ f i hdec
  have h' := h.take rest none
  rcases exec_next hexec with ⟨-, -, he⟩ | ⟨ch, b, -, rfl⟩
  · exact h'.effect hwf hsel he
  · exact h'.onChan fun _ hc => { hc with }

theorem DuartChannel.reset_inv : DuartChannel.reset.Inv := ⟨rfl, rfl, rfl, rfl, rfl, rfl⟩

/-- Settles O17: the images of a legal configuration are canonical and inside their sizes; the rest is at its reset value. -/
theorem resetEstablishesInvariant : Obligations.ResetEstablishesInvariant := by
  intro c h
  have hch := DuartChannel.reset_inv
  obtain ⟨-, -, -, -, -, -, -, hnvram, hinside⟩ := Config.wf_iff.1 h
  have hrtc : (State.resetWith c).RtcInv := ⟨rfl, fun ha => Bool.noConfusion ha, Nat.zero_le _, Nat.zero_le _⟩
  exact ⟨h, ⟨rfl, rfl, rfl, hnvram, hinside⟩, hrtc, hch, hch, fun hh => Bool.noConfusion hh,
    fun _ he => absurd he List.not_mem_nil⟩

end Sys2Proof.Machine
end

section
/-! PROOFS. How a step reads its frame: what of a frame the decoder looks at (20_memory.md R50, 30_encoding.md R70, R72), and
what a step does with the outcome (20_memory.md R53, R54). -/

namespace Sys2Proof

/-! ## The bits of data above the width -/

theorem Width.getLsbD_trunc (w : Width) (d : Word) {j : Nat} (hj : j < 8 * w.bytes) : (w.trunc d).getLsbD j = d.getLsbD j := by
  cases w <;> simp only [Width.bytes] at hj
  · simp [Width.trunc, show j < 8 by omega, show j < 32 by omega]
  · simp [Width.trunc, show j < 16 by omega, show j < 32 by omega]
  · rfl

/-- `MemWrite` stores no bit above the width. -/
theorem beBytes_trunc (w : Width) (d : Word) : beBytes w (w.trunc d) = beBytes w d := by
  refine List.map_congr_left fun k hk => BitVec.eq_of_getLsbD_eq fun i hi => ?_
  have hk' : k < w.bytes := List.mem_range.1 hk
  simp only [beByte, BitVec.getLsbD_extractLsb', hi, decide_true, Bool.true_and]
  exact w.getLsbD_trunc d (by omega)

theorem lowByte_trunc (w : Width) (d : Word) : lowByte (w.trunc d) = lowByte d := by
  refine BitVec.eq_of_getLsbD_eq fun i hi => ?_
  simp only [lowByte, BitVec.getLsbD_setWidth, hi, decide_true, Bool.true_and]
  exact w.getLsbD_trunc d (by cases w <;> simp only [Width.bytes] <;> omega)

section
variable {w : Width} {d d' : Word} (h : w.trunc d = w.trunc d')
include h

theorem beBytes_congr : beBytes w d = beBytes w d' := by rw [← beBytes_trunc, h, beBytes_trunc]

theorem lowByte_congr : lowByte d = lowByte d' := by rw [← lowByte_trunc w, h, lowByte_trunc]

end

/-! ## What of a frame the decoder looks at -/

/-- A transaction frame is read as its transaction, by the dispatch or as a row of a command byte. -/
theorem decode_transaction {k : BitVec 4} (hk : k.toNat < 4) (c : Config) (m : Bool) :
    ∃ g, (∀ f : Frame, f.format = k → decode c m f = f.require c g)
      ∧ (g = (fun t => .ok (decodeBus c m t)) ∨ ∃ row, g = decodeCommand c row) := by
  have hcases : k.toNat = 0 ∨ k.toNat = 1 ∨ k.toNat = 2 ∨ k.toNat = 3 := by omega
  rcases hcases with h | h | h | h
  · exact ⟨_, fun f hf => by simp [decode, hf, h], .inl rfl⟩
  · exact ⟨_, fun f hf => by simp [decode, hf, h], .inr ⟨CmdWrite.cmdRow, rfl⟩⟩
  · exact ⟨_, fun f hf => by simp [decode, hf, h], .inr ⟨CmdWrite.txcRow, rfl⟩⟩
  · exact ⟨_, fun f hf => by simp [decode, hf, h], .inr ⟨CmdWrite.rxcRow, rfl⟩⟩

/-- Settles O7: the decoder looks at the format and at the transaction, which the premises make the same. -/
theorem maskedAddressesAlias : Obligations.MaskedAddressesAlias := by
  intro c m f g hfmt hk hwidth hread hdata haddr
  have haccess : f.access c = g.access c := by
    unfold Frame.access
    rw [hwidth, hread, Config.mask, haddr, ← Config.mask]
    cases hr : g.isRead
    · rw [hdata (hread.trans hr)]
    · rfl
  obtain ⟨k, hdec, -⟩ := decode_transaction hk c m
  rw [hdec f rfl, hdec g hfmt.symm, Frame.require, Frame.require, haccess]

theorem Frame.width_eq_none {f : Frame} (h1 : f.key.extractLsb' 32 3 ≠ 0b001#3) (h2 : f.key.extractLsb' 32 3 ≠ 0b010#3)
    (h4 : f.key.extractLsb' 32 3 ≠ 0b100#3) : f.width = none := by
  unfold Frame.width
  generalize f.key.extractLsb' 32 3 = n at *
  revert n; decide

end Sys2Proof

namespace Sys2Proof.Machine

/-! ## What a step does with the outcome -/

section
variable {s : State} {f : Frame} {rest : List Frame} (hwf : s.cfg.wf = true) (hin : s.inputs = f :: rest)
  (hrun : (s.halted && transactionFrame f) = false)
include hwf hin hrun

theorem step_of_decode {i : Instr} (hdec : decode s.cfg s.activated f = .ok i) :
    step s = exec i { s with inputs := rest, answer := none } := by
  simp [step, State.fetch, hwf, hin, hrun, hdec]

theorem step_of_decode_error {e : DecodeError} (hdec : decode s.cfg s.activated f = .error e) :
    step s = .refused (.undecodable e) := by
  simp [step, State.fetch, hwf, hin, hrun, hdec]

end

/-- Settles O12: a fetch that gives the operation, run. -/
theorem stepRunsDecodedOperation : Obligations.StepRunsDecodedOperation := by
  intro s f rest i hwf hin hf hdec
  refine step_of_decode hwf hin ?_ hdec
  cases hh : s.halted
  · rfl
  · simpa [transactionFrame] using hf hh

/-- Settles O9: a transaction frame without a width has no transaction. -/
theorem widthOutsideInterfaceRefused : Obligations.WidthOutsideInterfaceRefused := by
  intro s f rest hwf hrun hin hk h1 h2 h4
  refine step_of_decode_error hwf hin (by rw [hrun]; rfl) ?_
  obtain ⟨k, hdec, -⟩ := decode_transaction hk s.cfg s.activated
  rw [hdec f rfl, Frame.require, Frame.access, Frame.width_eq_none h1 h2 h4]
  rfl

/-! ## Steps that no bit above the width changes -/

section
variable {w : Width} {d d' : Word} (h : w.trunc d = w.trunc d') (a : Word)
include h

theorem State.unhandled_write_congr (s : State) (k : ErrorKind) :
    s.unhandled k ⟨a, w, .write d⟩ = s.unhandled k ⟨a, w, .write d'⟩ := by
  simp [State.unhandled, State.log, Access.loggedData, Access.isRead, h]

theorem State.busError_write_congr (s : State) (k : BusErrorKind) :
    s.busError k ⟨a, w, .write d⟩ = s.busError k ⟨a, w, .write d'⟩ := by
  cases k <;> exact State.unhandled_write_congr h a s _

/-- An 8-bit write to a window is its low byte. -/
theorem decodeBus_window_congr {c : Config} {r : Region} (hr : c.region a.toNat = some r) (hrom : r ≠ .rom)
    (hram : r ≠ .ram) (m : Bool) (hw : w = .w8) : decodeBus c m ⟨a, w, .write d⟩ = decodeBus c m ⟨a, w, .write d'⟩ := by
  have hlow := lowByte_congr h
  cases r with
  | rom | ram => contradiction
  | duart => cases hk : c.duartReg (c.offset .duart a) <;> simp [decodeBus, decodeDuart, hr, hw, hk, hlow]
  | rtc => cases m <;> simp [decodeBus, decodeRtc, hr, hw, hlow]
  | tube => simp [decodeBus, decodeTube, hr, hw, hlow]
  | vfd => simp [decodeBus, decodeVfd, hr, hw, hlow]

end

/-- A wide access to a window is one of the four rows of a wrong width, which run alike. -/
theorem decodeBus_wide {c : Config} {t : Access} {r : Region} (hr : c.region t.addr.toNat = some r) (hrom : r ≠ .rom)
    (hram : r ≠ .ram) (hw : t.width ≠ .w8) (m : Bool) :
    decodeBus c m t ∈ [.duartBadwidth t, .rtcBadwidth t, .tubeBadwidth t, .vfdBadwidth t] := by
  cases r with
  | rom | ram => contradiction
  | duart => simp [decodeBus_duartBadwidth hw m hr]
  | rtc => simp [decodeBus_rtcBadwidth hw m hr]
  | tube => simp [decodeBus_tubeBadwidth hw m hr]
  | vfd => simp [decodeBus_vfdBadwidth hw m hr]

theorem exec_badwidth {t : Access} {i : Instr} (s : State)
    (hi : i ∈ [.duartBadwidth t, .rtcBadwidth t, .tubeBadwidth t, .vfdBadwidth t]) :
    exec i s = s.transact fun s => s.busError .width t := by
  simp only [List.mem_cons, List.not_mem_nil, or_false] at hi
  rcases hi with rfl | rfl | rfl | rfl <;> rfl

theorem decodeCommand_badwidth {c : Config} {t : Access} (row : CmdWrite → Instr)
    (hi : decodeBus c false t ∈ [.duartBadwidth t, .rtcBadwidth t, .tubeBadwidth t, .vfdBadwidth t]) :
    decodeCommand c row t = .error .notCommandWrite := by
  simp only [List.mem_cons, List.not_mem_nil, or_false] at hi
  rcases hi with h | h | h | h <;> rw [decodeCommand, h]

section
variable {w : Width} {d d' : Word} (h : w.trunc d = w.trunc d') (a : Word)
include h

/-- The operations that the dispatch gives to two writes run alike: they log and store the data truncated to the width. -/
theorem exec_decodeBus_congr (c : Config) (m : Bool) (s : State) :
    exec (decodeBus c m ⟨a, w, .write d⟩) s = exec (decodeBus c m ⟨a, w, .write d'⟩) s := by
  cases hr : c.region a.toNat with
  | none => simp [decodeBus, hr, State.unhandled_write_congr h]
  | some r =>
    cases r with
    | rom => cases hs : c.straddles .rom a w <;> simp [decodeBus, hr, hs, State.unhandled_write_congr h]
    | ram =>
      cases hs : c.straddles .ram a w <;> simp [decodeBus, hr, hs, State.unhandled_write_congr h, beBytes_congr h]
    | duart | rtc | tube | vfd =>
      by_cases hw : w = .w8
      · rw [decodeBus_window_congr h a hr (by decide) (by decide) m hw]
      · simp only [exec_badwidth s (decodeBus_wide (t := ⟨a, w, _⟩) hr (by decide) (by decide) hw m),
          State.busError_write_congr h]

/-- Two such writes are the same row of a command byte, or none. -/
theorem decodeCommand_congr (c : Config) (row : CmdWrite → Instr) :
    decodeCommand c row ⟨a, w, .write d⟩ = decodeCommand c row ⟨a, w, .write d'⟩ := by
  cases hr : c.region a.toNat with
  | none => simp [decodeCommand, decodeBus, hr]
  | some r =>
    cases r with
    | rom => cases hs : c.straddles .rom a w <;> simp [decodeCommand, decodeBus, hr, hs]
    | ram => cases hs : c.straddles .ram a w <;> simp [decodeCommand, decodeBus, hr, hs]
    | duart | rtc | tube | vfd =>
      by_cases hw : w = .w8
      · rw [decodeCommand, decodeBus_window_congr h a hr (by decide) (by decide) false hw, ← decodeCommand]
      · simp only [decodeCommand_badwidth row (decodeBus_wide (t := ⟨a, w, _⟩) hr (by decide) (by decide) hw false)]

end

/-- Two frames step alike when they decode to one result, or to operations that run alike. -/
theorem step_congr {s : State} {f g : Frame} {rest : List Frame} (hfmt : f.format = g.format)
    (h : decode s.cfg s.activated f = decode s.cfg s.activated g ∨ ∃ i j, decode s.cfg s.activated f = .ok i
      ∧ decode s.cfg s.activated g = .ok j ∧ ∀ u, exec i u = exec j u) :
    step { s with inputs := f :: rest } = step { s with inputs := g :: rest } := by
  have htrans : transactionFrame f = transactionFrame g := by rw [transactionFrame, hfmt, ← transactionFrame]
  rcases h with h | ⟨i, j, hi, hj, hij⟩
  · simp [step, State.fetch, htrans, h]
  · cases hwf : s.cfg.wf <;> cases hh : s.halted && transactionFrame g <;>
      simp [step, State.fetch, hwf, hh, htrans, hi, hj, hij]

/-- Settles O8: the two frames have one key, so they are one read or two writes of the same data as far as the width goes. -/
theorem dataAboveWidthIgnored : Obligations.DataAboveWidthIgnored := by
  intro s f g rest w hkey hk hw htrunc
  have hfmt : f.format = g.format := by rw [Frame.format, hkey, ← Frame.format]
  have hgw : g.width = some w := by rw [Frame.width, ← hkey, ← Frame.width, hw]
  have hread : g.isRead = f.isRead := by rw [Frame.isRead, ← hkey, ← Frame.isRead]
  have haddr : g.address = f.address := by rw [Frame.address, ← hkey, ← Frame.address]
  obtain ⟨k, hdec, hk⟩ := decode_transaction hk s.cfg s.activated
  refine step_congr hfmt ?_
  rw [hdec f rfl, hdec g hfmt.symm]
  cases hr : f.isRead with
  | true => left; simp [Frame.require, Frame.access, hw, hgw, hread, haddr, hr]
  | false =>
    have hf : f.access s.cfg = some ⟨s.cfg.mask f.address, w, .write f.data⟩ := by simp [Frame.access, hw, hr]
    have hg : g.access s.cfg = some ⟨s.cfg.mask f.address, w, .write g.data⟩ := by
      simp [Frame.access, hgw, hread, haddr, hr]
    simp only [Frame.require, hf, hg]
    rcases hk with rfl | ⟨row, rfl⟩
    · exact .inr ⟨_, _, rfl, rfl, exec_decodeBus_congr htrunc _ s.cfg s.activated⟩
    · exact .inl (decodeCommand_congr htrunc _ s.cfg row)

end Sys2Proof.Machine
end

section
/-! PROOFS. The DS1244 (41_ds1244.md): one access in each mode (R132 to R134), the detector as a function of its count
and the bit alone, and runs of accesses through both modes (R139, R262). -/

namespace Sys2Proof.Machine

/-! ## One access -/

/-- Settles O33: the eight bytes of MAGIC, bit 0 of the first one first, are the number's 64 bits. -/
theorem magicSequenceBits : Obligations.MagicSequenceBits := by
  unfold Obligations.MagicSequenceBits
  decide

theorem nvramIndex_eq_mod (off : Nat) : nvramIndex off = off % 0x8000 := Nat.and_two_pow_sub_one_eq_mod off 15

theorem State.nvramAt_eq_mod (s : State) (a : Word) : s.nvramAt a = (a.toNat - s.cfg.rtcBase) % 0x8000 :=
  nvramIndex_eq_mod _

/-- Settles O34: the one equation of the read, its index as a remainder. -/
theorem normalReadReturnsNvram : Obligations.NormalReadReturnsNvram := by
  intro s a h
  rw [exec_rtcRdNormal, State.transact_of_running h, State.nvramAt_eq_mod]
  rfl

/-- Settles O37: a Serial-mode write is one cycle answered with 0, by whether that cycle is the last. -/
theorem serialWriteIsDiscarded : Obligations.SerialWriteIsDiscarded := by
  refine fun s a d hrun hleft => ⟨fun hmore => ?_, fun hlast => ?_⟩
  · have hlt : 1 < s.bitsToShift := lt_of_le_of_ne hleft hmore.symm
    rw [exec_rtcWrSerial, State.transact_of_running hrun, State.serialCycle_of_one_lt hlt]; rfl
  · refine ⟨⟨.rtcCompleted, false, a, .w8, (Access.write8 a d).loggedData⟩, rfl, rfl, ?_⟩
    rw [exec_rtcWrSerial, State.transact_of_running hrun, State.serialCycle_of_eq_one hlast]; rfl

/-! ## The detector -/

/-- The detector's count after one bit (41_ds1244.md R132, R137); `none` where the bit completes the sequence. -/
def detectorStep (p : Nat) (bit : Bool) : Option Nat :=
  if bit = magicBit p then if p = 63 then none else some (p + 1) else some 0

/-- A bit that does not complete the sequence changes the count alone. -/
theorem State.detect_of_step {s : State} {bit : Bool} {q : Nat} (h : detectorStep s.magicSeqOffset bit = some q)
    (t : Access) : s.detect t bit = { s with magicSeqOffset := q } := by
  unfold detectorStep at h
  unfold State.detect
  split at h
  next hhit =>
    split at h
    · cases h
    next hp => cases h; rw [if_pos hhit, if_neg hp]
  next hmiss => cases h; rw [if_neg hmiss]

/-- The bit that completes the sequence resets the count, enters Serial mode and logs it. -/
theorem State.detect_of_complete {s : State} {bit : Bool} (h : detectorStep s.magicSeqOffset bit = none) (t : Access) :
    s.detect t bit = ({ s with magicSeqOffset := 0, activated := true, bitsToShift := 64 }).log .rtcActivated t := by
  unfold detectorStep at h
  unfold State.detect
  split at h
  next hhit =>
    split at h
    next hp => rw [if_pos hhit, if_pos hp]; rfl
    · cases h
  next => cases h

theorem detectorStep_eq_none_iff {p : Nat} {bit : Bool} : detectorStep p bit = none ↔ bit = magicBit p ∧ p = 63 := by
  unfold detectorStep
  split <;> simp_all

/-- A Normal-mode write on a running router: its byte, the detector, the answer. -/
theorem exec_rtcWrNormal_of_running {s : State} (h : s.halted = false) (a : Word) (d : Byte) :
    exec (.rtcWrNormal a d) s =
      .next (((s.setNvramByte (s.nvramAt a) d).detect (.write8 a d) (d.getLsbD 0)).reply .proceed 0) := by
  rw [exec_rtcWrNormal, State.transact_of_running h]

/-- Settles O35: the byte by the NVRAM store, which the detector leaves alone; the rest by the detector's step. -/
theorem normalWriteStoresAndDetects : Obligations.NormalWriteStoresAndDetects := by
  intro s a d hrun hp k p hit
  have hhit : hit ↔ d.getLsbD 0 = magicBit p := by rw [magicSequenceBits p (by omega)]
  have hk : s.nvramAt a = k := s.nvramAt_eq_mod a
  obtain ⟨_, _, _, _, heq, -⟩ := (s.setNvramByte (s.nvramAt a) d).detect_eq (.write8 a d) (d.getLsbD 0)
  refine ⟨_, exec_rtcWrNormal_of_running hrun a d, ?_, ?_, fun x hx => ?_, fun hno => ?_, fun hyes hne => ?_,
    fun hyes hlast => ?_⟩
  · rw [heq]; rfl
  · rw [heq]; exact (s.nvramByte_setNvramByte _ _ d).trans (if_pos hk)
  · rw [heq]; exact (s.nvramByte_setNvramByte _ _ d).trans (if_neg fun h => hx (h.symm.trans hk))
  · have hstep : detectorStep p (d.getLsbD 0) = some 0 := if_neg (mt hhit.2 hno)
    rw [State.detect_of_step (s := s.setNvramByte _ d) hstep]
    exact ⟨rfl, rfl, rfl, rfl⟩
  · have hstep : detectorStep p (d.getLsbD 0) = some (p + 1) := (if_pos (hhit.1 hyes)).trans (if_neg hne)
    rw [State.detect_of_step (s := s.setNvramByte _ d) hstep]
    exact ⟨rfl, rfl, rfl, rfl⟩
  · rw [State.detect_of_complete (s := s.setNvramByte _ d) (detectorStep_eq_none_iff.2 ⟨hhit.1 hyes, hlast⟩)]
    exact ⟨rfl, rfl, rfl, _, rfl, rfl, rfl⟩

/-! ## Runs of Normal-mode writes -/

theorem execAll_cons {i : Instr} {s t : State} (h : exec i s = .next t) (rest : List Instr) :
    execAll (i :: rest) s = execAll rest t := by
  rw [execAll, h]

/-- A run with one more access at its end. -/
theorem execAll_map_append_singleton {α : Type} {f : α → Instr} {xs : List α} {x : α} {s t u : State}
    (h : execAll (xs.map f) s = .next t) (hx : exec (f x) t = .next u) : execAll ((xs ++ [x]).map f) s = .next u := by
  rw [List.map_append, execAll_append _ _ s t h, List.map_singleton, execAll_cons hx, execAll]

theorem exists_append_singleton {α : Type} {xs : List α} {n : Nat} (h : xs.length = n + 1) :
    ∃ init x, xs = init ++ [x] ∧ init.length = n :=
  ⟨xs.dropLast, xs.getLast (List.ne_nil_of_length_eq_add_one h), (List.dropLast_concat_getLast _).symm,
    by rw [List.length_dropLast, h, Nat.add_sub_cancel]⟩

/-- As long as the detector does not complete the sequence, a run of writes changes its count, and leaves the mode and the
log alone. -/
theorem execAll_normalWrites (ws : List (Word × Byte)) : ∀ {s : State} {q : Nat}, s.halted = false →
    (ws.map fun w => w.2.getLsbD 0).foldlM detectorStep s.magicSeqOffset = some q →
    ∃ t, execAll (ws.map fun w => Instr.rtcWrNormal w.1 w.2) s = .next t ∧ t.halted = false ∧ t.magicSeqOffset = q
      ∧ t.activated = s.activated ∧ t.diag = s.diag := by
  induction ws with
  | nil =>
    intro s q hrun hq
    exact ⟨s, rfl, hrun, Option.some_inj.1 hq, rfl, rfl⟩
  | cons w ws ih =>
    intro s q hrun hq
    obtain ⟨p, hp, hq⟩ : ∃ p, detectorStep s.magicSeqOffset (w.2.getLsbD 0) = some p
        ∧ (ws.map fun w => w.2.getLsbD 0).foldlM detectorStep p = some q := by
      simpa [List.foldlM_cons, Option.bind_eq_some_iff] using hq
    have hexec := exec_rtcWrNormal_of_running hrun w.1 w.2
    rw [State.detect_of_step (s := s.setNvramByte _ _) hp] at hexec
    rw [List.map_cons, execAll_cons hexec]
    exact ih hrun hq

/-- Settles O40: from each of the 64 counts the six bits end at 0, without completing the sequence. -/
theorem sixWritesClearTheDetector : Obligations.SixWritesClearTheDetector := by
  intro s ws hrun hnormal hp hbits
  have hclear : ∀ p < 64, [true, true, false, false, false, false].foldlM detectorStep p = some 0 := by decide
  obtain ⟨t, ht, -, hoff, hact, hdiag⟩ := execAll_normalWrites ws hrun (hbits ▸ hclear _ (Nat.lt_succ_of_le hp))
  exact ⟨t, ht, hoff, hact.trans hnormal, hdiag⟩

/-- Fewer than 64 bits from count 0 never complete the sequence, and the count is their number exactly when each is the
expected one. -/
theorem detectorRun_of_length_lt (bits : List Bool) (h : bits.length < 64) : ∃ q ≤ bits.length,
    bits.foldlM detectorStep 0 = some q ∧ (q = bits.length ↔ bits = (List.range bits.length).map magicBit) := by
  induction bits using List.reverseRecOn with
  | nil => exact ⟨0, le_refl 0, rfl, by simp⟩
  | append_singleton bits b ih =>
    rw [List.length_append, List.length_singleton] at h ⊢
    obtain ⟨q, hle, hq, hexact⟩ := ih (by omega)
    have hrun : (bits ++ [b]).foldlM detectorStep 0 = detectorStep q b := by
      simp [List.foldlM_append, hq]
    have happend : bits ++ [b] = (List.range (bits.length + 1)).map magicBit
        ↔ q = bits.length ∧ b = magicBit bits.length := by
      rw [hexact, List.range_succ, List.map_append]
      simp
    rw [hrun, happend]
    unfold detectorStep
    split
    next hhit =>
      rw [if_neg (by omega)]
      refine ⟨q + 1, by omega, rfl, fun hlen => ?_, fun hlen => by omega⟩
      obtain rfl : q = bits.length := by omega
      exact ⟨rfl, hhit⟩
    next hmiss => exact ⟨0, by omega, rfl, fun hlen => by omega, fun ⟨hlen, hbit⟩ => absurd (hlen ▸ hbit) hmiss⟩

/-- The bits of 64 writes are the expected ones exactly when they list the magic bits. -/
theorem magicBits_iff {ws : List (Word × Byte)} (h : ws.length = 64) :
    (ws.map fun w => w.2.getLsbD 0) = (List.range 64).map magicBit ↔
      ∀ (p : Nat) (h : p < ws.length), (ws[p]).2.getLsbD 0 = (0x5CA33AC55CA33AC5#64).getLsbD p := by
  rw [List.ext_getElem_iff]
  simp only [List.length_map, List.length_range, h, List.getElem_map, List.getElem_range, true_and]
  exact forall_congr' fun p => ⟨fun hp hlt => (hp hlt hlt).trans (magicSequenceBits p hlt),
    fun hp hlt _ => (hp hlt).trans (magicSequenceBits p hlt).symm⟩

/-- From count 0, fewer than 64 writes stay in Normal mode, and the count is their number exactly when each bit was the
expected one. -/
theorem execAll_normalWrites_of_length_lt {s : State} (hrun : s.halted = false) (hzero : s.magicSeqOffset = 0)
    {ws : List (Word × Byte)} (h : ws.length < 64) :
    ∃ t, execAll (ws.map fun w => Instr.rtcWrNormal w.1 w.2) s = .next t ∧ t.halted = false ∧ t.activated = s.activated
      ∧ (t.magicSeqOffset = ws.length ↔ (ws.map fun w => w.2.getLsbD 0) = (List.range ws.length).map magicBit) := by
  obtain ⟨q, -, hq, hexact⟩ := detectorRun_of_length_lt (ws.map fun w => w.2.getLsbD 0) (by rwa [List.length_map])
  rw [List.length_map] at hexact
  obtain ⟨t, ht, hhalt, rfl, hact, -⟩ := execAll_normalWrites ws hrun (by rw [hzero]; exact hq)
  exact ⟨t, ht, hhalt, hact, hexact⟩

/-- From Normal mode a write enters Serial mode exactly when its bit completes the sequence. -/
theorem State.detect_activated_iff {s : State} (h : s.activated = false) (t : Access) (bit : Bool) :
    (s.detect t bit).activated = true ↔ detectorStep s.magicSeqOffset bit = none := by
  cases hstep : detectorStep s.magicSeqOffset bit with
  | none => simp [State.detect_of_complete hstep]
  | some q => simp [State.detect_of_step hstep, h]

/-- Settles O38: 63 writes leave the detector at count 63 exactly when each bit was the expected one, and the 64th completes
the sequence exactly from there. -/
theorem magicRunActivatesIffExact : Obligations.MagicRunActivatesIffExact := by
  intro s ws hrun hnormal hzero hlen run
  refine ⟨fun k hk => ?_, ?_⟩
  · obtain ⟨t, ht, -, hact, -⟩ := execAll_normalWrites_of_length_lt hrun hzero (ws := ws.take k) (by simp; omega)
    exact ⟨t, List.map_take ▸ ht, hact.trans hnormal⟩
  · rw [← magicBits_iff hlen]
    obtain ⟨init, w, rfl, hinit⟩ := exists_append_singleton hlen
    obtain ⟨u, hu, hhalt, hact, hexact⟩ := execAll_normalWrites_of_length_lt hrun hzero (ws := init) (by omega)
    refine ⟨_, execAll_map_append_singleton hu (exec_rtcWrNormal_of_running hhalt ..), ?_⟩
    calc _ ↔ detectorStep u.magicSeqOffset (w.2.getLsbD 0) = none :=
          State.detect_activated_iff (s := u.setNvramByte _ _) (hact.trans hnormal) ..
      _ ↔ u.magicSeqOffset = 63 ∧ w.2.getLsbD 0 = magicBit 63 :=
          detectorStep_eq_none_iff.trans (and_comm.trans (and_congr_right fun hp => by rw [hp]))
      _ ↔ _ := by
        rw [List.map_append, List.range_succ, List.map_append, List.map_singleton, List.map_singleton,
          List.append_singleton_inj, ← hinit, hexact]

/-! ## Runs of Serial-mode accesses -/

/-- A Serial-mode access of either direction is one cycle. -/
theorem exec_serialAccess (o : Word × Option Byte) {s : State} (h : s.halted = false) :
    ∃ t, exec (serialAccess o) s = .next ((s.serialCycle t).reply .proceed 0) := by
  obtain ⟨a, _ | d⟩ := o
  · exact ⟨_, (exec_rtcRdSerial a s).trans (State.transact_of_running h _)⟩
  · exact ⟨_, (exec_rtcWrSerial a d s).trans (State.transact_of_running h _)⟩

/-- Fewer accesses than cycles are left use up one each, and besides the answer change nothing else. -/
theorem execAll_serialAccesses (ops : List (Word × Option Byte)) : ∀ {s : State}, s.halted = false →
    ops.length < s.bitsToShift → ∃ a, execAll (ops.map serialAccess) s =
      .next { s with bitsToShift := s.bitsToShift - ops.length, answer := a } := by
  induction ops with
  | nil => exact fun _ _ => ⟨_, rfl⟩
  | cons o ops ih =>
    intro s hrun hlt
    rw [List.length_cons] at hlt
    obtain ⟨t, ht⟩ := exec_serialAccess o hrun
    rw [State.serialCycle_of_one_lt (by omega)] at ht
    obtain ⟨a, ha⟩ := ih (s := ({ s with bitsToShift := s.bitsToShift - 1 }).reply .proceed 0) hrun
      (show ops.length < s.bitsToShift - 1 by omega)
    refine ⟨a, ?_⟩
    rw [List.map_cons, execAll_cons ht, ha, List.length_cons, Nat.add_comm, ← Nat.sub_sub]
    rfl

/-- Settles O39: 63 accesses leave one cycle, which the 64th uses up. -/
theorem serialModeLastsSixtyFourAccesses : Obligations.SerialModeLastsSixtyFourAccesses := by
  intro s ops hrun hact hshift hzero hlen run
  refine ⟨fun k hk => ?_, ?_⟩
  · have htake : (ops.take k).length = k := by rw [List.length_take]; omega
    obtain ⟨a, ha⟩ := execAll_serialAccesses (ops.take k) hrun (by omega)
    rw [hshift, htake, List.map_take] at ha
    exact ⟨_, ha, hact, rfl⟩
  · obtain ⟨init, o, rfl, hinit⟩ := exists_append_singleton hlen
    obtain ⟨a, ha⟩ := execAll_serialAccesses init hrun (by omega)
    rw [hshift, hinit] at ha
    obtain ⟨t, ht⟩ := exec_serialAccess o (s := { s with bitsToShift := 64 - 63, answer := a }) hrun
    rw [State.serialCycle_of_eq_one rfl] at ht
    exact ⟨_, execAll_map_append_singleton ha ht, rfl, rfl, hzero, rfl, _, rfl, rfl⟩

end Sys2Proof.Machine
end

section
/-! PROOFS. Accesses that the router or a peripheral refuses, with all that they leave (40_bus_router.md R102, R105,
41_ds1244.md R131, 42_duart.md R151, R194, R195, 43_sinks.md R212, R215). -/

namespace Sys2Proof.Machine

/-- Settles O27: the three rows take the recovery path of an UnmappedAddressError, each with its own access. -/
theorem romWriteAndStraddlePolicy : Obligations.RomWriteAndStraddlePolicy := by
  refine fun s a w d t h => ⟨?_, ?_, ?_⟩
  · rw [exec_romWr, State.transact_of_running h, State.unhandled_unmappedAddress h]; rfl
  · rw [exec_romStraddle, State.transact_of_running h, State.unhandled_unmappedAddress h]
  · rw [exec_ramStraddle, State.transact_of_running h, State.unhandled_unmappedAddress h]

/-- Settles O29: the four rows run one transaction. -/
theorem badWidthRowsLogAndProceed : Obligations.BadWidthRowsLogAndProceed := fun s t h =>
  ⟨(exec_rtcBadwidth t s).trans (State.transact_width h t), (exec_duartBadwidth t s).trans (State.transact_width h t),
    (exec_tubeBadwidth t s).trans (State.transact_width h t), (exec_vfdBadwidth t s).trans (State.transact_width h t)⟩

/-- An 8-bit write logs its byte. -/
theorem Access.loggedData_write8 (a : Word) (d : Byte) : (Access.write8 a d).loggedData = d.setWidth 32 :=
  congrArg (BitVec.setWidth 32) (lowByte_zext32 d)

/-- Settles O32: both directions are the peripheral's error, the write with its byte. -/
theorem unimplementedDuartAccess : Obligations.UnimplementedDuartAccess := by
  refine fun s a d h => ⟨(exec_duartUnimplRd a s).trans (State.transact_unsupported_read8 h a), ?_⟩
  rw [exec_duartUnimplWr, State.transact_of_running h, State.busError_eq, ← Access.loggedData_write8 a]
  rfl

end Sys2Proof.Machine
end

section
/-! PROOFS. The DUART's registers (42_duart.md R152, R153, R180 to R193) and the reader agents' push (R196). -/

namespace Sys2Proof.Machine

/-! ## The status byte -/

theorem exec_srRd_of_running {s : State} (h : s.halted = false) (a : Word) (ch : Channel) : exec (.srRd a ch) s =
    .next { s with answer := some ⟨.proceed, zext32 (s.chan ch).status⟩ } := by
  rw [exec_srRd a, State.transact_of_running h]; rfl

/-- Settles O42: the eight bits are the eight joined flags, bit 7 first. -/
theorem statusByteBits : Obligations.StatusByteBits := by
  refine fun s a ch h => ⟨(s.chan ch).status, exec_srRd_of_running h a ch, ?_⟩
  simp only [DuartChannel.status, BitVec.getLsbD_append, BitVec.getLsbD_ofBool]
  exact ⟨rfl, rfl, rfl, rfl, rfl, rfl, rfl, rfl⟩

/-- Under R197 and R198 the byte depends on `txOn` and on the receive queue's length alone. -/
theorem DuartChannel.Inv.status_eq {c : DuartChannel} (h : c.Inv) : zext32 c.status =
    if c.txOn then (if c.rxFifo.length = 0 then 0x0E else if c.rxFifo.length ≤ 3 then 0x0F else 0x0D)
    else (if c.rxFifo.length = 0 then 0x02 else if c.rxFifo.length ≤ 3 then 0x03 else 0x01) := by
  unfold DuartChannel.status
  rw [h.no_break, h.no_framing, h.no_parity, h.no_overrun, h.tx_empty]
  generalize c.rxFifo.length = n
  by_cases h0 : n = 0
  · cases c.txOn <;> simp [h0, rxFullDepth, txReadyDepth, zext32]
  · by_cases h3 : n ≤ 3
    · cases c.txOn <;> simp [h0, h3, Nat.pos_of_ne_zero h0, rxFullDepth, txReadyDepth, zext32]
    · cases c.txOn <;> simp [h0, h3, Nat.pos_of_ne_zero h0, rxFullDepth, txReadyDepth, zext32]

/-- Settles O43: the byte under the channel's invariant. -/
theorem statusByteReachableValues : Obligations.StatusByteReachableValues := by
  intro s a ch hrun hinv n
  rw [exec_srRd_of_running hrun, hinv.status_eq]

/-! ## The other registers -/

/-- A transaction of one channel: its update, the answer, and no other change. -/
theorem State.transact_onChan {s : State} (h : s.halted = false) (ch : Channel) (g : DuartChannel → DuartChannel) :
    (s.transact fun s => (s.onChan ch g).reply .proceed 0) =
      .next { s.setChan ch (g (s.chan ch)) with answer := some ⟨.proceed, 0⟩ } :=
  State.transact_of_running h _

/-- A transaction that only answers. -/
theorem State.transact_answer {s : State} (h : s.halted = false) :
    (s.transact fun s => s.reply .proceed 0) = .next { s with answer := some ⟨.proceed, 0⟩ } :=
  State.transact_of_running h _

/-- Settles O44: by the queue, whose head is answered and removed. -/
theorem holdingReadPopsTheQueue : Obligations.HoldingReadPopsTheQueue := by
  refine fun s a ch h => ⟨fun b rest hq => ?_, fun hq => ?_⟩
  · rw [exec_rhrRd, State.transact_of_running h, hq]; rfl
  · rw [exec_rhrRd, State.transact_of_running h, hq]; rfl

/-- Settles O45: through an empty transmit queue the byte passes at once. -/
theorem transmitPassesThrough : Obligations.TransmitPassesThrough := by
  intro s a ch d h hempty
  rw [exec_thrWr a, State.transact_onChan h, DuartChannel.transmit_of_empty hempty, ← hempty]

/-- Settles O46: one update of the channel. -/
theorem modeWriteSetsPointer : Obligations.ModeWriteSetsPointer := fun s a ch d h =>
  (exec_mrWr (a := a) (d := d) a ch d s).trans (State.transact_onChan h ch _)

/-- Settles O47: the six stubs run a transaction that only answers. -/
theorem stubWritesChangeNothing : Obligations.StubWritesChangeNothing := fun _ _ _ _ h =>
  have hanswer := State.transact_answer h
  ⟨hanswer, hanswer, hanswer, hanswer, hanswer, hanswer⟩

/-- Settles O48: each half of the joined bytes. -/
theorem timerBytesCompose : Obligations.TimerBytesCompose := by
  refine fun s a d h => ⟨⟨d ++ s.timerPeriod.extractLsb' 0 8, ?_, append_high .., append_low ..⟩,
    ⟨s.timerPeriod.extractLsb' 8 8 ++ d, ?_, append_low .., append_high ..⟩⟩
  · rw [exec_cturWr a, State.transact_of_running h]; rfl
  · rw [exec_ctlrWr a, State.transact_of_running h]; rfl

/-- Settles O57: a push is no transaction, so nothing stops it. -/
theorem pushAppendsOneByte : Obligations.PushAppendsOneByte := fun s ch b => exec_rxPush ch b s

end Sys2Proof.Machine
end

section
/-! PROOFS. Reset (70_reset_and_hazards.md R251, R256), reads without side effects (20_memory.md R47) and reads of a width
other than the write's (R42). -/

namespace Sys2Proof

/-- In a legal configuration no byte of an access that fits wraps around. -/
theorem Config.toNat_add_of_fits {c : Config} (hwf : c.wf = true) {r : Region} {a : Word} {w : Width}
    (h : c.fits r a w = true) {k : Nat} (hk : k < w.bytes) :
    (a + BitVec.ofNat 32 k).toNat - c.base r = a.toNat - c.base r + k := by
  obtain ⟨hreg, -⟩ := Config.region_and_not_straddles_of_fits h
  obtain ⟨hbase, -⟩ := Config.region_some hreg
  have hsize := Config.offset_of_fits h
  obtain ⟨-, -, -, htop, -⟩ := Config.wf_iff.1 hwf
  have hend := htop r
  have hmask := c.addrMask.isLt
  unfold Config.offset at hsize
  rw [BitVec.toNat_add, BitVec.toNat_ofNat]
  omega

end Sys2Proof

namespace Sys2Proof.Machine

/-! ## Reset -/

/-- Settles O15: every field at its reset value; the status byte is that of a channel with all flags clear. -/
theorem resetStateValues : Obligations.ResetStateValues := by
  refine fun c => ⟨rfl, rfl, fun _ => rfl, rfl, rfl, rfl, rfl, rfl, rfl, fun ch => ?_⟩
  have hch : (State.resetWith c).chan ch = .reset := by cases ch <;> rfl
  rw [hch]
  refine ⟨rfl, rfl, rfl, rfl, rfl, rfl, rfl, rfl, rfl, rfl, rfl, rfl, rfl, fun a => ?_⟩
  rw [exec_srRd_of_running rfl, hch, DuartChannel.reset_inv.status_eq]
  rfl

/-- Settles O16: ROM lies at address 0, so the two bus reads are the two words of the vector. -/
theorem resetVectorIsFirstEightRomBytes : Obligations.ResetVectorIsFirstEightRomBytes := by
  refine ⟨fun s => ⟨rfl, rfl, fun hwf hrun => ?_⟩, fun s hrom => ?_⟩
  · have hSP := exec_romRd_of_running hrun 0 .w32
    have hPC := exec_romRd_of_running hrun 4 .w32
    rw [(Config.wf_iff.1 hwf).1] at hSP hPC
    exact ⟨hSP, hPC⟩
  · simp [State.initialSP, State.initialPC, memRead, State.romByte, hrom, Memory.find]

/-! ## Reads without side effects -/

/-- A transaction that answers a value which no answer changes gives itself again when it is repeated. -/
theorem exec_reply_idempotent {i : Instr} {v : State → Word}
    (hi : ∀ s : State, exec i s = s.transact fun s => s.reply .proceed (v s))
    (hv : ∀ (s : State) (a : Option Answer), v { s with answer := a } = v s) {s t : State} (h : exec i s = .next t) :
    exec i t = .next t ∧ t = { s with answer := t.answer } := by
  rw [hi] at h ⊢
  obtain ⟨hrun, rfl⟩ := State.transact_next.1 h
  refine ⟨State.transact_next.2 ⟨hrun, ?_⟩, rfl⟩
  exact congrArg (s.reply .proceed) (hv s _).symm

/-- Settles O60: none of the four values depends on the last answer. -/
theorem idempotentReads : Obligations.IdempotentReads := by
  rintro i s t (⟨a, w, rfl⟩ | ⟨a, w, rfl⟩ | ⟨a, rfl⟩ | ⟨a, ch, rfl⟩) h
  · exact exec_reply_idempotent (exec_romRd a w) (fun _ _ => rfl) h
  · exact exec_reply_idempotent (exec_ramRd a w) (fun _ _ => rfl) h
  · exact exec_reply_idempotent (exec_rtcRdNormal a) (fun _ _ => rfl) h
  · exact exec_reply_idempotent (exec_srRd a ch) (fun s a => by cases ch <;> rfl) h

/-! ## Reads of another width -/

/-- The two middle big-endian bytes of a 32-bit value. -/
theorem middle_append (v : Word) : v.extractLsb' 16 8 ++ v.extractLsb' 8 8 = v.extractLsb' 8 16 :=
  BitVec.extractLsb'_append_extractLsb'_eq_extractLsb' (start₁ := 8) (len₁ := 8) (len₂ := 8) rfl

/-- Settles O25: the reads join the bytes that the write placed. -/
theorem narrowReadsAfterWideWrite : Obligations.NarrowReadsAfterWideWrite := by
  intro s t a v hwf hfit hexec
  obtain ⟨hrun, rfl⟩ := State.transact_next.1 ((exec_ramWr a .w32 v s).symm.trans hexec)
  generalize ht : (s.setRamBytes (s.cfg.offset .ram a) (beBytes .w32 v)).reply .proceed 0 = t
  have hcfg : t.cfg = s.cfg := by simp [← ht]
  have hrun' : t.halted = false := by simp [← ht, hrun]
  have hbyte : ∀ k < 4, t.ramByte (a.toNat - s.cfg.ramBase + k) = beByte .w32 v k := fun k hk => by
    rw [← ht]; exact s.ramByte_setRamBytes_beBytes _ v (w := .w32) hk
  have hoff : ∀ k < 4, (a + BitVec.ofNat 32 k).toNat - t.cfg.ramBase = a.toNat - s.cfg.ramBase + k := fun k hk => by
    rw [hcfg]; exact Config.toNat_add_of_fits hwf hfit hk
  have hoff1 : (a + 1).toNat - t.cfg.ramBase = a.toNat - s.cfg.ramBase + 1 := hoff 1 (by decide)
  have hoff2 : (a + 2).toNat - t.cfg.ramBase = a.toNat - s.cfg.ramBase + 2 := hoff 2 (by decide)
  have hbyte1 := hbyte 1 (by decide)
  have hbyte2 := hbyte 2 (by decide)
  have hbyte3 := hbyte 3 (by decide)
  refine ⟨?_, ?_, ?_, ?_⟩
  · rw [exec_ramRd_of_running hrun', hoff1, memRead, hbyte1]; rfl
  · rw [exec_ramRd_of_running hrun', hoff2, memRead, hbyte2, hbyte3, ← halves_append]; rfl
  · rw [exec_ramRd_of_running hrun', hoff1, memRead, hbyte1, hbyte2, ← middle_append]; rfl
  · have hword : memRead t.ramByte (a.toNat - t.cfg.ramBase) .w32 = v := by
      rw [← ht]; exact s.memRead_setRamBytes _ .w32 v
    rw [exec_ramRd_of_running hrun', hword]

end Sys2Proof.Machine
end

section
/-! PROOFS. The command byte (42_duart.md R154 to R172): its rows one by one, the whole byte as its three rows in order, and
the receiver reset that its enable field cannot undo. -/

namespace Sys2Proof.Machine

/-! ## The rows one by one -/

section
variable {s : State} (h : s.halted = false) (c : CmdWrite)
include h

/-- An unimplemented command logs its write, answers, and changes nothing else. -/
theorem State.transact_unimplemented : (s.transact fun s => (s.unimplemented c).reply .proceed 0) =
    .next { s with
      diag := s.diag ++ [⟨.duartUnimplementedCommand, false, c.addr, .w8, c.access.loggedData⟩],
      answer := some ⟨.proceed, 0⟩ } :=
  State.transact_of_running h _

end

/-- Settles O52: each reset is one update of the channel, and the row of its nibble. -/
theorem resetCommands : Obligations.ResetCommands := by
  intro s c h u d
  refine ⟨State.transact_onChan h .., State.transact_onChan h .., State.transact_onChan h .., State.transact_onChan h ..,
    State.transact_onChan h .., ?_, ?_, ?_, ?_, ?_⟩
  all_goals
    intro hk
    rw [CmdWrite.cmdRow, hk]
    rfl

/-- Settles O53: each command is one update of the channel. -/
theorem baudExtendCommands : Obligations.BaudExtendCommands := fun _ _ h =>
  ⟨State.transact_onChan h .., State.transact_onChan h .., State.transact_onChan h .., State.transact_onChan h ..⟩

/-- Settles O54: the six commands run one transaction. -/
theorem unimplementedCommandsOnlyLog : Obligations.UnimplementedCommandsOnlyLog := fun _ c h =>
  have hlog := State.transact_unimplemented h c
  ⟨_, rfl, rfl, hlog, hlog, hlog, hlog, hlog, hlog⟩

/-- Settles O55: a pattern that sets or clears a flag is one update of the channel; the others only answer. -/
theorem enableFieldPatterns : Obligations.EnableFieldPatterns := fun _ _ h =>
  have hanswer := State.transact_answer h
  ⟨State.transact_onChan h .., State.transact_onChan h .., State.transact_onChan h .., State.transact_onChan h ..,
    hanswer, hanswer, hanswer⟩

/-- Settles O56: the flag is the next free value, which advances the counter. -/
theorem reservedPatternLeavesFlagFree : Obligations.ReservedPatternLeavesFlagFree := by
  rintro s ⟨a, ch, d⟩ h
  refine ⟨⟨Config.freeEnable s.freeIdx, s.freeIdx + 1, ?_⟩, Config.freeEnable s.freeIdx, s.freeIdx + 1, ?_⟩
  · rw [exec_txcReserved, State.transact_of_running h]
    cases ch <;> rfl
  · rw [exec_rxcReserved, State.transact_of_running h]
    cases ch <;> rfl

/-! ## The whole byte -/

section
variable (w : CmdWrite) (s : State)

theorem exec_txcRow : exec w.txcRow s = s.transact fun s => (s.applyTxc w).reply .proceed 0 := by
  unfold CmdWrite.txcRow State.applyTxc
  generalize w.txc = k
  obtain ⟨k⟩ := k
  fin_cases k <;> rfl

theorem exec_rxcRow : exec w.rxcRow s = s.transact fun s => (s.applyRxc w).reply .proceed 0 := by
  unfold CmdWrite.rxcRow State.applyRxc
  generalize w.rxc = k
  obtain ⟨k⟩ := k
  fin_cases k <;> rfl

theorem exec_cmdRow : exec w.cmdRow s = s.transact fun s => (s.applyCmd w).reply .proceed 0 := by
  unfold CmdWrite.cmdRow State.applyCmd
  generalize w.cmd = k
  obtain ⟨k⟩ := k
  fin_cases k <;> rfl

theorem State.applyTxc_halted : (s.applyTxc w).halted = s.halted := by
  obtain ⟨_, _, h⟩ := s.applyTxc_eq w
  rw [h]; exact s.onChan_halted ..

theorem State.applyRxc_halted : (s.applyRxc w).halted = s.halted := by
  obtain ⟨_, _, h⟩ := s.applyRxc_eq w
  rw [h]; exact s.onChan_halted ..

end

/-- Settles O50: an answer given before a part is applied is given after it as well, so the three rows are the three parts. -/
theorem commandWriteIsItsThreeRows : Obligations.CommandWriteIsItsThreeRows := by
  intro s a ch d h w
  have h1 : ((s.applyTxc w).reply .proceed 0).halted = false := (s.applyTxc_halted w).trans h
  have h2 : ((((s.applyTxc w).reply .proceed 0).applyRxc w).reply .proceed 0).halted = false :=
    (State.applyRxc_halted w _).trans h1
  refine ⟨_, _, _, (exec_txcRow w s).trans (State.transact_of_running h _),
    (exec_rxcRow w _).trans (State.transact_of_running h1 _), (exec_cmdRow w _).trans (State.transact_of_running h2 _), ?_⟩
  rw [exec_crWr, State.transact_of_running h, State.command, State.applyCmd_reply, State.applyRxc_reply, State.applyCmd_reply]
  rfl

/-- The transmitter field 00, 01 and 10 keeps, sets and clears `txOn` (R155). -/
theorem State.applyTxc_txOn (s : State) (w : CmdWrite) :
    (w.txc = 0 → ((s.applyTxc w).chan w.ch).txOn = (s.chan w.ch).txOn)
    ∧ (w.txc = 1 → ((s.applyTxc w).chan w.ch).txOn = true) ∧ (w.txc = 2 → ((s.applyTxc w).chan w.ch).txOn = false) := by
  refine ⟨fun hk => ?_, fun hk => ?_, fun hk => ?_⟩ <;> rw [State.applyTxc, hk]
  · rfl
  · exact congrArg DuartChannel.txOn (s.chan_onChan w.ch _)
  · exact congrArg DuartChannel.txOn (s.chan_onChan w.ch _)

/-- Settles O51: the receiver reset comes after both enable fields, so it overrides the receiver's and keeps the
transmitter's. -/
theorem resetReceiverBeatsEnable : Obligations.ResetReceiverBeatsEnable := by
  intro s a ch d h hcmd
  have htx := s.applyTxc_txOn ⟨a, ch, d⟩
  obtain ⟨v, n, htxc⟩ := s.applyTxc_eq ⟨a, ch, d⟩
  obtain ⟨v', n', hrxc⟩ := (s.applyTxc ⟨a, ch, d⟩).applyRxc_eq ⟨a, ch, d⟩
  have hreset : ∀ u : State, u.applyCmd ⟨a, ch, d⟩ = u.resetRx ⟨a, ch, d⟩ := fun u => by
    rw [State.applyCmd, CmdWrite.cmd, hcmd]; rfl
  refine ⟨_, (exec_crWr a ch d s).trans (State.transact_of_running h _), ?_⟩
  rw [State.command, hreset, hrxc]
  rw [htxc] at htx ⊢
  cases ch <;> exact ⟨rfl, rfl, htx⟩

end Sys2Proof.Machine
end

section
/-! PROOFS. The two channels (42_duart.md R199): what an operation on one of them does is independent of the other. -/

namespace Sys2Proof.Machine

/-- `f` leaves every channel but `ch` alone, and does the same whatever that other channel holds. -/
structure ActsOn (ch : Channel) (f : State → State) : Prop where
  keeps : ∀ (s : State) {o : Channel}, o ≠ ch → (f s).chan o = s.chan o
  commutes : ∀ (s : State) {o : Channel}, o ≠ ch → ∀ d, f (s.setChan o d) = (f s).setChan o d

namespace ActsOn

variable {ch : Channel} {f g : State → State}

theorem id : ActsOn ch fun s => s := ⟨fun _ _ _ => rfl, fun _ _ _ _ => rfl⟩

theorem comp (hg : ActsOn ch g) (hf : ActsOn ch f) : ActsOn ch fun s => g (f s) :=
  ⟨fun s _ ho => (hg.keeps (f s) ho).trans (hf.keeps s ho),
    fun s _ ho d => (congrArg g (hf.commutes s ho d)).trans (hg.commutes (f s) ho d)⟩

theorem onChan (u : DuartChannel → DuartChannel) : ActsOn ch fun s => s.onChan ch u :=
  ⟨fun _ _ ho => State.chan_onChan_ne ho u, fun s o ho d => by
    cases ch <;> cases o
    case A.A | B.B => exact absurd rfl ho
    case A.B | B.A => rfl⟩

theorem reply (v : Word) : ActsOn ch fun s => s.reply .proceed v :=
  ⟨fun s o _ => s.chan_reply .proceed v o, fun s o _ d => by cases o <;> rfl⟩

theorem log (k : ErrorKind) (t : Access) : ActsOn ch fun s => s.log k t :=
  ⟨fun s o _ => s.chan_log k t o, fun s o _ d => by cases o <;> rfl⟩

theorem setFreeIdx (n : Nat) : ActsOn ch fun s => { s with freeIdx := n } :=
  ⟨fun s o _ => by cases o <;> rfl, fun s o _ d => by cases o <;> rfl⟩

/-- A choice that the channel alone decides. -/
theorem choose {F : DuartChannel → State → State} (h : ∀ c, ActsOn ch (F c)) : ActsOn ch fun s => F (s.chan ch) s :=
  ⟨fun s _ ho => (h _).keeps s ho, fun s o ho d =>
    (congrArg (F · (s.setChan o d)) (State.chan_setChan_ne ho.symm d)).trans ((h _).commutes s ho d)⟩

/-- A choice that the counter of free values alone decides. -/
theorem chooseFree {F : Nat → State → State} (h : ∀ n, ActsOn ch (F n)) : ActsOn ch fun s => F s.freeIdx s :=
  ⟨fun s _ ho => (h _).keeps s ho, fun s o ho d =>
    (congrArg (F · (s.setChan o d)) (s.setChan_freeIdx o d)).trans ((h _).commutes s ho d)⟩

/-! ## The command byte -/

variable (w : CmdWrite)

theorem freeTxOn : ActsOn w.ch fun s => s.freeTxOn w :=
  chooseFree (F := fun n s => ({ s with freeIdx := n + 1 } : State).setTxOn w (Config.freeEnable n)) fun n =>
    (onChan _).comp (setFreeIdx (n + 1))

theorem freeRxOn : ActsOn w.ch fun s => s.freeRxOn w :=
  chooseFree (F := fun n s => ({ s with freeIdx := n + 1 } : State).setRxOn w (Config.freeEnable n)) fun n =>
    (onChan _).comp (setFreeIdx (n + 1))

theorem applyTxc : ActsOn w.ch fun s => s.applyTxc w := by
  unfold State.applyTxc
  split
  · exact id
  · exact onChan _
  · exact onChan _
  · exact freeTxOn w

theorem applyRxc : ActsOn w.ch fun s => s.applyRxc w := by
  unfold State.applyRxc
  split
  · exact id
  · exact onChan _
  · exact onChan _
  · exact freeRxOn w

theorem applyCmd : ActsOn w.ch fun s => s.applyCmd w := by
  unfold State.applyCmd
  split
  · exact id
  iterate 9 exact onChan _
  · exact log ..

theorem command : ActsOn w.ch fun s => s.command w := (applyCmd w).comp ((applyRxc w).comp (applyTxc w))

end ActsOn

/-- A transaction addressed to a channel acts on it alone. -/
theorem exec_actsOn {i : Instr} {ch : Channel} (h : channelOf i = some ch) (hi : isTransaction i = true) :
    ∃ f, (∀ s, exec i s = s.transact f) ∧ ActsOn ch f := by
  cases i with
  | srRd => cases h; exact ⟨_, fun _ => rfl, .choose (F := fun c s => s.reply .proceed (zext32 c.status)) fun _ => .reply _⟩
  | rhrRd a ch =>
    cases h
    refine ⟨_, exec_rhrRd a ch, .choose (F := fun c s => match c.rxFifo with
      | b :: rest => (s.onChan ch fun d => { d with rxFifo := rest }).reply .proceed (zext32 b)
      | [] => (s.log .protocolViolation (.read8 a)).reply .proceed 0) fun c => ?_⟩
    cases c.rxFifo with
    | nil => exact (ActsOn.reply 0).comp (.log ..)
    | cons b rest => exact (ActsOn.reply _).comp (.onChan _)
  | mrWr | thrWr | cmdResetMrp | cmdResetRx | cmdResetTx | cmdResetErr | cmdResetBrkirq | cmdSetRxbrg | cmdClrRxbrg
  | cmdSetTxbrg | cmdClrTxbrg | txcEnable | txcDisable | rxcEnable | rxcDisable =>
    cases h; exact ⟨_, fun _ => rfl, (ActsOn.reply 0).comp (.onChan _)⟩
  | csrWr | cmdNop | txcNochange | rxcNochange => cases h; exact ⟨_, fun _ => rfl, .reply 0⟩
  | crWr a ch d => cases h; exact ⟨_, fun _ => rfl, (ActsOn.reply 0).comp (.command ⟨a, ch, d⟩)⟩
  | cmdStartBreak | cmdStopBreak | cmdStandby | cmdActive | cmdRsvdE | cmdRsvdF =>
    cases h; exact ⟨_, fun _ => rfl, (ActsOn.reply 0).comp (.log ..)⟩
  | txcReserved => cases h; exact ⟨_, fun _ => rfl, (ActsOn.reply 0).comp (.freeTxOn _)⟩
  | rxcReserved => cases h; exact ⟨_, fun _ => rfl, (ActsOn.reply 0).comp (.freeRxOn _)⟩
  | rxPush => cases hi
  | _ => cases h

/-- Settles O58: a transaction and a push alike act on their channel alone. -/
theorem channelsAreIndependent : Obligations.ChannelsAreIndependent := by
  intro i ch o s t hch ho h
  by_cases hi : isTransaction i = true
  · obtain ⟨f, hf, hact⟩ := exec_actsOn hch hi
    obtain ⟨hrun, rfl⟩ := State.transact_next.1 ((hf s).symm.trans h)
    refine ⟨hact.keeps s ho, fun d => ?_⟩
    rw [hf, State.transact_of_running ((s.setChan_halted o d).trans hrun), hact.commutes s ho]
  · obtain ⟨_, b, rfl⟩ := eq_rxPush_of_not_isTransaction hi
    cases hch
    cases h
    have hact := ActsOn.onChan (ch := ch) fun c => { c with rxFifo := c.rxFifo ++ [b] }
    exact ⟨hact.keeps s ho, fun d => congrArg Host.Outcome.next (hact.commutes s ho d)⟩

end Sys2Proof.Machine
end

section
/-! PROOFS. The receive queue between a reader agent and the bus master (20_memory.md R56): one operation moves bytes in at
the end or out at the head, and a run adds the moves up. -/

namespace Sys2Proof.Machine

theorem State.chan_congr {s t : State} (hA : t.chA = s.chA) (hB : t.chB = s.chB) (o : Channel) : t.chan o = s.chan o := by
  cases o
  · exact hA
  · exact hB

/-- A transaction keeps the receive queue of a channel that it neither reads nor resets. -/
theorem Effect.rxFifo {i : Instr} {s t : State} (h : Effect i s t) {ch : Channel} (hr : resetsReceiver ch i = false)
    (hh : holdingRead ch i = false) : (t.chan ch).rxFifo = (s.chan ch).rxFifo := by
  cases h with
  | unmapped t =>
    obtain ⟨_, _, heq, -⟩ := s.unhandled_eq .unmappedAddress t
    rw [heq]; cases ch <;> rfl
  | storesRam => rw [State.chan_congr (s := s) (by simp) (by simp)]
  | detects a d =>
    obtain ⟨_, _, _, _, heq, -⟩ := (s.setNvramByte (s.nvramAt a) d).detect_eq (.write8 a d) (d.getLsbD 0)
    rw [heq]; cases ch <;> rfl
  | cycles t =>
    obtain ⟨_, _, _, heq, -⟩ := s.serialCycle_eq t
    rw [heq]; cases ch <;> rfl
  | proceeds v _ he => rw [State.chan_reply, he.queue ch hr hh]

/-! ## The bytes one operation moves -/

theorem pushedBytes_cons (ch : Channel) (i : Instr) (rest : List Instr) :
    pushedBytes ch (i :: rest) = pushedBytes ch [i] ++ pushedBytes ch rest := by
  cases i with
  | rxPush o b => by_cases ho : o = ch <;> simp [pushedBytes, ho]
  | _ => rfl

theorem receivedBytes_cons {ch : Channel} {i : Instr} {s t : State} (h : exec i s = .next t) (rest : List Instr) :
    receivedBytes ch (i :: rest) s = receivedBytes ch [i] s ++ receivedBytes ch rest t := by
  simp only [receivedBytes, h]
  split <;> simp

theorem pushedBytes_of_transaction {i : Instr} (hi : isTransaction i = true) (ch : Channel) : pushedBytes ch [i] = [] := by
  cases i with
  | rxPush => cases hi
  | _ => rfl

theorem receivedBytes_of_not_holdingRead {ch : Channel} {i : Instr} (h : holdingRead ch i = false) (s : State) :
    receivedBytes ch [i] s = [] := by
  cases he : exec i s <;> simp [receivedBytes, he, h]

theorem holdingRead_iff {ch : Channel} {i : Instr} : holdingRead ch i = true ↔ ∃ a, i = .rhrRd a ch := by
  cases i <;> simp [holdingRead]

/-- One operation that does not reset the receiver loses and doubles no byte. -/
theorem exec_rxFifo {ch : Channel} {i : Instr} {s t : State} (hr : resetsReceiver ch i = false) (h : exec i s = .next t) :
    (s.chan ch).rxFifo ++ pushedBytes ch [i] = receivedBytes ch [i] s ++ (t.chan ch).rxFifo := by
  rcases exec_next h with ⟨hi, hrun, he⟩ | ⟨o, b, rfl, rfl⟩
  · rw [pushedBytes_of_transaction hi, List.append_nil]
    cases hh : holdingRead ch i with
    | false => rw [receivedBytes_of_not_holdingRead hh, List.nil_append, he.rxFifo hr hh]
    | true =>
      obtain ⟨a, rfl⟩ := holdingRead_iff.1 hh
      have hexec := h
      rw [exec_rhrRd, State.transact_of_running hrun] at hexec
      cases hq : (s.chan ch).rxFifo with
      | nil =>
        simp only [hq] at hexec
        cases hexec
        simp [receivedBytes, h, hq]
      | cons b rest =>
        simp only [hq] at hexec
        cases hexec
        simp [receivedBytes, h, hq, holdingRead, State.answerValue]
  · rw [receivedBytes_of_not_holdingRead rfl, List.nil_append, State.chan_onChan_eq]
    by_cases ho : ch = o
    · simp [pushedBytes, ho]
    · simp [pushedBytes, ho, Ne.symm ho]

/-- Settles O59: by induction on the run, each operation moving its bytes. -/
theorem receiveQueueIsLossless : Obligations.ReceiveQueueIsLossless := by
  intro ch run
  induction run with
  | nil =>
    intro s t _ h
    cases h
    simp [pushedBytes, receivedBytes]
  | cons i run ih =>
    intro s t hr h
    obtain ⟨u, hu, hrest⟩ : ∃ u, exec i s = .next u ∧ execAll run u = .next t := by
      rw [execAll] at h
      cases he : exec i s <;> simp_all
    have hstep := exec_rxFifo (hr i List.mem_cons_self) hu
    have hrun := ih u t (fun j hj => hr j (List.mem_cons_of_mem i hj)) hrest
    calc (s.chan ch).rxFifo ++ pushedBytes ch (i :: run)
        = (receivedBytes ch [i] s ++ (u.chan ch).rxFifo) ++ pushedBytes ch run := by
          rw [pushedBytes_cons, ← List.append_assoc, hstep]
      _ = receivedBytes ch [i] s ++ (receivedBytes ch run u ++ (t.chan ch).rxFifo) := by rw [List.append_assoc, hrun]
      _ = receivedBytes ch (i :: run) s ++ (t.chan ch).rxFifo := by rw [receivedBytes_cons hu run, List.append_assoc]

end Sys2Proof.Machine
end

section
/-! PROOFS. The decoder against the opcode table (30_encoding.md R89): the rows of a command byte and the dispatch of a
transaction are the first ones that match, and ten keys printed in 95_test_vectors.md. -/

namespace Sys2Proof

/-- Settles O6: the decoder run on each key. -/
theorem printedKeysDecode : Obligations.PrintedKeysDecode :=
  ⟨rfl, rfl, rfl, rfl, rfl, rfl, rfl, rfl, rfl, rfl⟩

/-! ## The rows of a command byte -/

/-- Each format's mask keeps one field of the byte. -/
theorem CmdWrite.data_and_masks (w : CmdWrite) : w.data &&& 0xF0#8 = w.cmd ++ 0#4
    ∧ w.data &&& 0x0C#8 = 0#4 ++ w.txc ++ 0#2 ∧ w.data &&& 0x03#8 = 0#6 ++ w.rxc := by
  rw [← w.fields]
  generalize w.cmd = c; generalize w.txc = t; generalize w.rxc = r
  revert c t r
  decide

/-- Settles O5: each of the three lists has one row for each value of its field. -/
theorem commandByteRowsAreFirstMatches : Obligations.CommandByteRowsAreFirstMatches := by
  intro w
  obtain ⟨hcmd, htxc, hrxc⟩ := w.data_and_masks
  refine ⟨?_, ?_, ?_⟩
  · simp only [commandRows, List.find?_cons, OpcodeRow.matchesByte, hcmd, CmdWrite.cmdRow]
    generalize w.cmd = k
    obtain ⟨k⟩ := k
    fin_cases k <;> rfl
  · simp only [txEnableRows, List.find?_cons, OpcodeRow.matchesByte, htxc, CmdWrite.txcRow]
    generalize w.txc = k
    obtain ⟨k⟩ := k
    fin_cases k <;> rfl
  · simp only [rxEnableRows, List.find?_cons, OpcodeRow.matchesByte, hrxc, CmdWrite.rxcRow]
    generalize w.rxc = k
    obtain ⟨k⟩ := k
    fin_cases k <;> rfl

end Sys2Proof
end

section
/-! PROOFS. The dispatch against the opcode table's rows for transactions (30_encoding.md R89): a row is a test of the key's
fields, A[31:16] selects the group of rows, and inside a group the first match is the dispatch's. -/

namespace Sys2Proof

/-! ## A key by its fields -/

/-- Two keys are equal when their direction and width, their A[31:16], their A[15:4] and their A[3:0] are. -/
theorem key_eq_iff {x y : BitVec 36} : x = y ↔ x.extractLsb' 32 4 = y.extractLsb' 32 4
    ∧ x.extractLsb' 16 16 = y.extractLsb' 16 16 ∧ x.extractLsb' 4 12 = y.extractLsb' 4 12
    ∧ x.extractLsb' 0 4 = y.extractLsb' 0 4 := by
  refine ⟨fun h => by simp [h], fun ⟨hhead, hhigh, hmid, hlow⟩ => ?_⟩
  have hbits : ∀ z : BitVec 36,
      z.extractLsb' 32 4 ++ z.extractLsb' 16 16 ++ z.extractLsb' 4 12 ++ z.extractLsb' 0 4 = z := fun z => by
    rw [BitVec.extractLsb'_append_extractLsb'_eq_extractLsb' (show 32 = 16 + 16 from rfl),
      BitVec.extractLsb'_append_extractLsb'_eq_extractLsb' (show 16 = 4 + 12 from rfl),
      BitVec.extractLsb'_append_extractLsb'_eq_extractLsb' (show 4 = 0 + 4 from rfl), BitVec.extractLsb'_eq_self]
  rw [← hbits x, ← hbits y, hhead, hhigh, hmid, hlow]

/-- Field `[i + n - 1 : i]` of a key, of value `v`, fits a row. -/
def OpcodeRow.fits (r : OpcodeRow) (i : Nat) {n : Nat} (v : BitVec n) : Bool :=
  decide (v &&& (BitVec.ofNat 36 r.mask).extractLsb' i n = (BitVec.ofNat 36 r.bits).extractLsb' i n)

/-- A condition holds in mode `serial` for an access that ends past its 64KB when `past`. -/
def RowCond.holdsIf (serial past : Bool) : RowCond → Bool
  | .straddle => past
  | .normal => !serial
  | .serial => serial
  | .always => true

/-- A row fits the four fields of a key and the two facts its condition may ask for. -/
def OpcodeRow.fitsKey (head : BitVec 4) (high : BitVec 16) (mid : BitVec 12) (low : BitVec 4) (serial past : Bool)
    (r : OpcodeRow) : Bool :=
  r.fits 32 head && r.fits 16 high && r.fits 4 mid && r.fits 0 low && r.cond.holdsIf serial past

/-- The access ends past the 64KB it begins in. -/
def Access.past (t : Access) : Bool := decide (0x10000 < (t.addr.extractLsb' 0 16).toNat + t.width.bytes)

/-- A row matches a transaction field by field, and by its condition. -/
theorem OpcodeRow.matchesKey_eq (r : OpcodeRow) (m : Bool) (t : Access) : r.matchesKey m t =
    r.fitsKey (t.op.field ++ t.width.field) (t.addr.extractLsb' 16 16) (t.addr.extractLsb' 4 12) (t.addr.extractLsb' 0 4)
      m t.past := by
  have hhead : t.key.extractLsb' 32 4 = t.op.field ++ t.width.field := BitVec.extractLsb'_append_eq_left
  have haddr : ∀ i n, i + n ≤ 32 → t.key.extractLsb' i n = t.addr.extractLsb' i n := fun i n h =>
    BitVec.extractLsb'_append_eq_of_add_le h
  have hcond : r.cond.holds m t = r.cond.holdsIf m t.past := by cases r.cond <;> rfl
  simp only [OpcodeRow.matchesKey, key_eq_iff, BitVec.extractLsb'_and, hhead, haddr 16 16 (by decide), haddr 4 12 (by decide),
    haddr 0 4 (by decide), Bool.decide_and, Bool.and_assoc, hcond, OpcodeRow.fitsKey, OpcodeRow.fits]

/-- A field that a row does not look at may as well be 0. -/
theorem OpcodeRow.fits_of_mask_eq_zero {r : OpcodeRow} {i n : Nat} (h : (BitVec.ofNat 36 r.mask).extractLsb' i n = 0)
    (v : BitVec n) : r.fits i v = r.fits i (0 : BitVec n) := by
  simp [OpcodeRow.fits, h]

/-! ## A[31:16] selects the group -/

section
variable (m : Bool) (t : Access)

/-- Rows that ask for an A[31:16] of a list match no other. -/
theorem find?_eq_none_of_high {rows : List OpcodeRow} {ks : List (BitVec 16)} (hrows : ∀ r ∈ rows,
    (BitVec.ofNat 36 r.mask).extractLsb' 16 16 = BitVec.allOnes 16 ∧ (BitVec.ofNat 36 r.bits).extractLsb' 16 16 ∈ ks)
    (h : t.addr.extractLsb' 16 16 ∉ ks) : rows.find? (fun r => r.matchesKey m t) = none := by
  refine List.find?_eq_none.2 fun r hr hmatch => h ?_
  obtain ⟨hmask, hbits⟩ := hrows r hr
  simp only [OpcodeRow.matchesKey_eq, OpcodeRow.fitsKey, Bool.and_eq_true, OpcodeRow.fits, decide_eq_true_eq, hmask,
    BitVec.and_allOnes] at hmatch
  obtain ⟨⟨⟨⟨-, hhigh⟩, -⟩, -⟩, -⟩ := hmatch
  rwa [hhigh]

/-- Rows that do not look at A[15:0]. -/
theorem find?_of_low_free {rows : List OpcodeRow} (hrows : ∀ r ∈ rows,
    (BitVec.ofNat 36 r.mask).extractLsb' 4 12 = 0 ∧ (BitVec.ofNat 36 r.mask).extractLsb' 0 4 = 0) :
    rows.find? (fun r => r.matchesKey m t) =
      rows.find? (OpcodeRow.fitsKey (t.op.field ++ t.width.field) (t.addr.extractLsb' 16 16) 0 0 m t.past) := by
  refine List.find?_congr fun r hr => ?_
  obtain ⟨hmid, hlow⟩ := hrows r hr
  rw [OpcodeRow.matchesKey_eq, OpcodeRow.fitsKey, OpcodeRow.fits_of_mask_eq_zero hmid, OpcodeRow.fits_of_mask_eq_zero hlow,
    ← OpcodeRow.fitsKey]

variable {t}

theorem routerRows_find?_eq_none (h : t.addr.extractLsb' 16 16 ∉ [0#16, 5#16]) :
    routerRows.find? (fun r => r.matchesKey m t) = none := find?_eq_none_of_high m t (by decide) h

theorem rtcRows_find?_eq_none (h : t.addr.extractLsb' 16 16 ∉ [2#16]) :
    rtcRows.find? (fun r => r.matchesKey m t) = none := find?_eq_none_of_high m t (by decide) h

theorem duartRows_find?_eq_none (h : t.addr.extractLsb' 16 16 ∉ [1#16]) :
    duartRows.find? (fun r => r.matchesKey m t) = none := find?_eq_none_of_high m t (by decide) h

theorem sinkRows_find?_eq_none (h : t.addr.extractLsb' 16 16 ∉ [3#16, 4#16]) :
    sinkRows.find? (fun r => r.matchesKey m t) = none := find?_eq_none_of_high m t (by decide) h

end

/-- In the reference configuration a masked address's region gives its A[31:16]. -/
theorem Config.reference_high {a : Word} {r : Region} (h : Config.reference.region a.toNat = some r) :
    a.extractLsb' 16 16 = BitVec.ofNat 16 (Config.reference.base r / 0x10000) :=
  BitVec.eq_of_toNat_eq (((Config.reference_region_iff a r).1 h).trans (by cases r <;> rfl))

/-- The table's straddle test is the dispatch's. -/
theorem Config.reference_straddles {t : Access} {r : Region} (h : Config.reference.region t.addr.toNat = some r) :
    Config.reference.straddles r t.addr t.width = t.past := by
  have hoff := Config.offset_eq_low_half Config.reference_wf (Config.reference_size r) t.addr h
  obtain ⟨hlo, -⟩ := Config.region_some h
  rw [Access.past, ← hoff, Config.straddles, Config.top, Config.reference_size, Config.offset]
  exact decide_eq_decide.2 (by omega)

/-! ## Group by group -/

section
variable (m : Bool) {t : Access}

theorem routerRows_find? {r : Region} (hr : r = .rom ∨ r = .ram) (h : Config.reference.region t.addr.toNat = some r) :
    (routerRows.find? fun r => r.matchesKey m t).map OpcodeRow.mnemonic =
      some (decodeBus Config.reference m t).mnemonic := by
  rw [find?_of_low_free m t (by decide), Config.reference_high h, decodeBus, h]
  rcases hr with rfl | rfl
  all_goals
    simp only [Config.reference_straddles h]
    cases t.past <;> cases t.op <;> cases t.width <;> simp only [BusOp.field] <;> rfl

theorem rtcRows_find? (h : Config.reference.region t.addr.toNat = some .rtc) :
    (rtcRows.find? fun r => r.matchesKey m t).map OpcodeRow.mnemonic =
      some (decodeBus Config.reference m t).mnemonic := by
  rw [find?_of_low_free m t (by decide), Config.reference_high h, decodeBus, h]
  simp only [decodeRtc]
  cases m <;> cases t.op <;> cases t.width <;> simp only [BusOp.field] <;> rfl

theorem sinkRows_find? {r : Region} (hr : r = .tube ∨ r = .vfd) (h : Config.reference.region t.addr.toNat = some r) :
    (sinkRows.find? fun r => r.matchesKey m t).map OpcodeRow.mnemonic =
      some (decodeBus Config.reference m t).mnemonic := by
  rw [find?_of_low_free m t (by decide), Config.reference_high h, decodeBus, h]
  rcases hr with rfl | rfl
  all_goals
    simp only [decodeTube, decodeVfd]
    cases t.op <;> cases t.width <;> simp only [BusOp.field] <;> rfl

/-- The two last rows look at the direction alone. -/
theorem unmappedRows_find? (h : Config.reference.region t.addr.toNat = none) :
    (unmappedRows.find? fun r => r.matchesKey m t).map OpcodeRow.mnemonic =
      some (decodeBus Config.reference m t).mnemonic := by
  have hhigh : ∀ r ∈ unmappedRows, (BitVec.ofNat 36 r.mask).extractLsb' 16 16 = 0 := by decide
  rw [find?_of_low_free m t (by decide), List.find?_congr fun r hr => by
    rw [OpcodeRow.fitsKey, OpcodeRow.fits_of_mask_eq_zero (hhigh r hr), ← OpcodeRow.fitsKey], decodeBus, h]
  cases t.op <;> cases t.width <;> simp only [BusOp.field] <;> rfl

/-! ## The DUART's rows -/

/-- A row that asks A[15:4] for 0, or for nothing, tells only whether it is 0. -/
theorem find?_of_mid {mid mid' : BitVec 12} (hmid : mid ≠ 0) (hmid' : mid' ≠ 0) (head : BitVec 4) (high : BitVec 16)
    (low : BitVec 4) (past : Bool) :
    duartRows.find? (OpcodeRow.fitsKey head high mid low m past)
      = duartRows.find? (OpcodeRow.fitsKey head high mid' low m past) := by
  have hrows : ∀ r ∈ duartRows, (BitVec.ofNat 36 r.mask).extractLsb' 4 12 = 0
      ∨ (BitVec.ofNat 36 r.mask).extractLsb' 4 12 = BitVec.allOnes 12 ∧ (BitVec.ofNat 36 r.bits).extractLsb' 4 12 = 0 := by
    decide
  refine List.find?_congr fun r hr => ?_
  have hfits : r.fits 4 mid = r.fits 4 mid' := by
    rcases hrows r hr with hmask | ⟨hmask, hbits⟩
    · rw [OpcodeRow.fits_of_mask_eq_zero hmask, OpcodeRow.fits_of_mask_eq_zero hmask mid']
    · simp only [OpcodeRow.fits, hmask, hbits, BitVec.and_allOnes, hmid, hmid']
  rw [OpcodeRow.fitsKey, hfits, ← OpcodeRow.fitsKey]

/-- `duartReg` of the reference configuration is the offset, below 16 (30_encoding.md R78). -/
theorem Config.reference_duartReg_of_le {off : Nat} (h : 16 ≤ off) : Config.reference.duartReg off = none := by
  have hmap : ∀ e ∈ Config.reference.duartMap, e.1 < 16 := by decide
  refine List.lookup_eq_none_iff.2 fun e he => ?_
  have := hmap e he
  simp; omega

theorem duartRows_find? (h : Config.reference.region t.addr.toNat = some .duart) :
    (duartRows.find? fun r => r.matchesKey m t).map OpcodeRow.mnemonic =
      some (decodeBus Config.reference m t).mnemonic := by
  have hoff := Config.offset_eq_low_half Config.reference_wf (Config.reference_size _) t.addr h
  have hhalf : (t.addr.extractLsb' 0 16).toNat
      = 16 * (t.addr.extractLsb' 4 12).toNat + (t.addr.extractLsb' 0 4).toNat := by
    simp only [BitVec.extractLsb'_toNat, Nat.shiftRight_eq_div_pow]
    omega
  have hfind : duartRows.find? (fun r => r.matchesKey m t) = duartRows.find? (OpcodeRow.fitsKey
      (t.op.field ++ t.width.field) 1#16 (t.addr.extractLsb' 4 12) (t.addr.extractLsb' 0 4) m t.past) := by
    rw [← show t.addr.extractLsb' 16 16 = 1#16 from Config.reference_high h]
    exact List.find?_congr fun r _ => r.matchesKey_eq m t
  rw [hfind, decodeBus, h]
  simp only [decodeDuart]
  rw [hoff, hhalf]
  generalize t.addr.extractLsb' 0 4 = low
  by_cases hmid : t.addr.extractLsb' 4 12 = 0
  · rw [hmid]
    obtain ⟨k⟩ := low
    cases t.op <;> cases t.width <;> simp only [BusOp.field] <;> fin_cases k <;> rfl
  · have hnone : 16 ≤ 16 * (t.addr.extractLsb' 4 12).toNat + low.toNat := by
      have hpos : (t.addr.extractLsb' 4 12).toNat ≠ 0 := fun h0 => hmid (BitVec.eq_of_toNat_eq h0)
      omega
    rw [Config.reference_duartReg_of_le hnone, find?_of_mid m hmid (by decide : (1 : BitVec 12) ≠ 0)]
    obtain ⟨k⟩ := low
    cases t.op <;> cases t.width <;> simp only [BusOp.field] <;> fin_cases k <;> rfl

end

/-- An address of no region has the A[31:16] of none. -/
theorem Config.reference_high_of_none {a : Word} (h : Config.reference.region a.toNat = none) (r : Region) :
    a.extractLsb' 16 16 ≠ BitVec.ofNat 16 (Config.reference.base r / 0x10000) := fun heq => by
  have hr : Config.reference.region a.toNat = some r :=
    (Config.reference_region_iff a r).2 ((congrArg BitVec.toNat heq).trans (by cases r <;> rfl))
  cases h.symm.trans hr

/-- Settles O4: A[31:16] rules out every group but the region's own, in which the first match is the dispatch's row. -/
theorem dispatchIsFirstMatchingTableRow : Obligations.DispatchIsFirstMatchingTableRow := by
  intro m t _
  simp only [busRows, List.find?_append, Option.map_or]
  cases hr : Config.reference.region t.addr.toNat with
  | none =>
    have hne := Config.reference_high_of_none hr
    rw [routerRows_find?_eq_none m (by simpa using ⟨hne .rom, hne .ram⟩),
      rtcRows_find?_eq_none m (hne .rtc ∘ List.mem_singleton.1),
      duartRows_find?_eq_none m (hne .duart ∘ List.mem_singleton.1),
      sinkRows_find?_eq_none m (by simpa using ⟨hne .tube, hne .vfd⟩), unmappedRows_find? m hr]
    rfl
  | some r =>
    have hhigh := Config.reference_high hr
    cases r with
    | rom => rw [routerRows_find? m (.inl rfl) hr]; rfl
    | ram => rw [routerRows_find? m (.inr rfl) hr]; rfl
    | rtc => rw [routerRows_find?_eq_none m (by rw [hhigh]; decide), rtcRows_find? m hr]; rfl
    | duart =>
      rw [routerRows_find?_eq_none m (by rw [hhigh]; decide), rtcRows_find?_eq_none m (by rw [hhigh]; decide),
        duartRows_find? m hr]
      rfl
    | tube =>
      rw [routerRows_find?_eq_none m (by rw [hhigh]; decide), rtcRows_find?_eq_none m (by rw [hhigh]; decide),
        duartRows_find?_eq_none m (by rw [hhigh]; decide), sinkRows_find? m (.inl rfl) hr]
      rfl
    | vfd =>
      rw [routerRows_find?_eq_none m (by rw [hhigh]; decide), rtcRows_find?_eq_none m (by rw [hhigh]; decide),
        duartRows_find?_eq_none m (by rw [hhigh]; decide), sinkRows_find? m (.inr rfl) hr]
      rfl

end Sys2Proof
end
